-- ==== Sys2Proof/Word.lean ====
section
/-! DEFINITION. The widths of the machine (spec/00_scope.md R6, R7): bytes, 32-bit register words, 64-bit
keys and blocks, 48-bit subkeys, 28-bit key-schedule halves. All values are unsigned (R7). -/

namespace Sys2Proof

/-- A byte of MBUF, a pad byte or a length field of 8 bits. -/
abbrev Byte := BitVec 8

/-- A 32-bit register word: the width of every register access (R6). -/
abbrev Word := BitVec 32

/-- A 64-bit key or block. DES index 0 is its most significant bit (R8). -/
abbrev Block := BitVec 64

/-- A 32-bit half block, `L` or `R`. -/
abbrev Half := BitVec 32

/-- A 48-bit subkey, or an expanded half block. -/
abbrev Subkey := BitVec 48

/-- A 28-bit half of the key-schedule register, `C` or `D`. -/
abbrev KeyHalf := BitVec 28

end Sys2Proof
end

