-- ==== Sys2Proof/Syntax.lean ====
section
/-! DEFINITION. The command words (spec/30_encoding.md R83), the host's bus transactions (R81, R87) and its
pseudo-instructions (R88, spec/44_commands.md R205 to R208), as syntax. -/

namespace Sys2Proof

/-- The `DIR` bit of a command word (R80): 0 = ENCRYPT, 1 = DECRYPT. -/
inductive Direction
  | encrypt
  | decrypt
deriving DecidableEq, Repr

/-- The seven commands of R83, one constructor per row of the opcode table. No command has an operand field: the
operands stand in registers (R80, R82). -/
inductive Instr
  /-- `NOP`, `0x00000000` -/
  | nop
  /-- `KEYGEN`, `0x00000001` -/
  | keygen
  /-- `BLOCK.E`, `0x00000002` -/
  | blockE
  /-- `BLOCK.D`, `0x00000012` -/
  | blockD
  /-- `CRYPT.E`, `0x00000003` -/
  | cryptE
  /-- `CRYPT.D`, `0x00000013` -/
  | cryptD
  /-- `CLEAR`, `0x0000000F` -/
  | clear
deriving DecidableEq, Repr

/-- Read or write, the `rw` field of a bus transaction (R81). -/
inductive Rw
  | read
  | write
deriving DecidableEq, Repr

/-- A host bus transaction (R81). `width` is in bytes; the engine takes 1 and 4 only, and every other width is a bus
fault (spec/20_memory.md R64, R65). `data` is used by writes only; a write of width 1 uses its low byte. -/
structure Access where
  rw : Rw
  off : BitVec 32
  width : Nat
  data : Word
deriving DecidableEq, Repr

/-- `WR32 off, imm32` (R87). -/
def Access.wr32 (off : BitVec 32) (w : Word) : Access := { rw := .write, off := off, width := 4, data := w }

/-- `WR8 off, imm8` (R87). -/
def Access.wr8 (off : BitVec 32) (b : Byte) : Access :=
  { rw := .write, off := off, width := 1, data := b.setWidth 32 }

/-- `RD32 off` (R87). -/
def Access.rd32 (off : BitVec 32) : Access := { rw := .read, off := off, width := 4, data := 0 }

/-- `RD8 off` (R87). -/
def Access.rd8 (off : BitVec 32) : Access := { rw := .read, off := off, width := 1, data := 0 }

/-- A transaction as a bus carries it, by its bus address; which window offset that is depends on `BASE`
(spec/00_scope.md R6, spec/20_memory.md R60, R76). -/
structure BusCycle where
  rw : Rw
  addr : Nat
  width : Nat
  data : Word
deriving DecidableEq, Repr

/-- The transaction that presents a command word, `(W, 0x004, 4, word)` (R81). -/
def Access.command (w : Word) : Access := Access.wr32 0x004#32 w

/-- What the host does next: one bus access, or one of the three things a host program does with a value it has
read (R88, spec/44_commands.md section 3). -/
inductive HostOp
  /-- One bus transaction (R81). -/
  | access (t : Access)
  /-- `POLL`: read `STATUS` until `BUSY` reads 0. -/
  | poll
  /-- `NEXT`: read `OUT_LEN` and write the value read to `MSG_LEN`. -/
  | feedLength
  /-- Read `STATUS`; if `ERR` reads 1, leave out the next `rest` operations (the rest of a procedure, log 12). -/
  | stopIfError (rest : Nat)
deriving DecidableEq, Repr

/-- The two agents of spec/00_scope.md R5. -/
inductive Agent
  | host
  | engine
deriving DecidableEq, Repr

/-- The operand of the `PAD` pseudo-instruction (R88). -/
inductive PadArg
  /-- `PAD byte`: present, length 1, fill mode. -/
  | fill (b : Byte)
  /-- `PAD none`: absent. -/
  | absent
  /-- `PAD bad(len)`: present, with a length other than 1. -/
  | bad (len : Byte)
  /-- `PAD pkcs7`. -/
  | pkcs7
deriving DecidableEq, Repr

/-- The pseudo-instructions of R88 and the composition procedures of spec/44_commands.md R205 to R208. They are
host-side macros: the engine never sees them. -/
inductive Pseudo
  | poll
  | ldkey (k : List Byte)
  | ldmsg (m : List Byte)
  | pad (p : PadArg)
  | next
  | encrypt (m k : List Byte)
  | decrypt (c k : List Byte)
  | cryptx (m : List Byte) (dir : Direction) (k : List Byte) (p : PadArg)
  /-- An omitted pad setting is `PAD 0x20` (spec/44_commands.md R205). -/
  | ddesE (m k1 k2 : List Byte) (p : Option PadArg)
  | ddesD (c k1 k2 : List Byte)
  /-- An omitted third key is the first key; an omitted pad setting is `PAD 0x20` (spec/44_commands.md R207, R205). -/
  | tdesE (m k1 k2 : List Byte) (k3 : Option (List Byte)) (p : Option PadArg)
  | tdesD (c k1 k2 : List Byte) (k3 : Option (List Byte))
deriving DecidableEq, Repr

end Sys2Proof
end

