-- ==== Sys2Proof/Decode.lean ====
section
/-! DEFINITION. The command decoder of spec/30_encoding.md R86, total on all 2^32 words and rejecting the others by
name (R84), and the encoder, written from the field layout of R80. -/

namespace Sys2Proof

/-- Why a word is no command (the three groups R84 lists). All three end an idle issue with ILLEGAL_COMMAND. -/
inductive IllegalWord
  /-- `RSV != 0`. -/
  | reservedBits
  /-- `OP` in 4..14. -/
  | reservedOp
  /-- `DIR = 1` with `OP` in 0, 1, 15. -/
  | directionNotDefined
deriving DecidableEq, Repr

/-- The `OP` field, bits [3:0] (R80). -/
def opField (w : Word) : BitVec 4 := w.extractLsb' 0 4

/-- The `DIR` field, bit [4] (R80). -/
def dirField (w : Word) : Bool := w.getLsbD 4

/-- The `RSV` field, bits [31:5] (R80). -/
def rsvField (w : Word) : BitVec 27 := w.extractLsb' 5 27

/-- The group of R84 that a word outside R83 belongs to. -/
def illegalReason (w : Word) : IllegalWord :=
  if rsvField w ≠ 0#27 then .reservedBits
  else if 4 ≤ (opField w).toNat ∧ (opField w).toNat ≤ 14 then .reservedOp
  else .directionNotDefined

/-- R86: each command is matched on all 32 bits; every other word is illegal. -/
def decode (w : Word) : Except IllegalWord Instr :=
  if w = 0x00000000#32 then .ok .nop
  else if w = 0x00000001#32 then .ok .keygen
  else if w = 0x00000002#32 then .ok .blockE
  else if w = 0x00000012#32 then .ok .blockD
  else if w = 0x00000003#32 then .ok .cryptE
  else if w = 0x00000013#32 then .ok .cryptD
  else if w = 0x0000000F#32 then .ok .clear
  else .error (illegalReason w)

/-- The opcode of a command (R80). -/
def Instr.op : Instr → BitVec 4
  | .nop => 0#4
  | .keygen => 1#4
  | .blockE => 2#4
  | .blockD => 2#4
  | .cryptE => 3#4
  | .cryptD => 3#4
  | .clear => 15#4

/-- The direction bit of a command (R80): 0 where `DIR` is not defined. -/
def Instr.dir : Instr → BitVec 1
  | .nop => 0#1
  | .keygen => 0#1
  | .blockE => 0#1
  | .blockD => 1#1
  | .cryptE => 0#1
  | .cryptD => 1#1
  | .clear => 0#1

/-- The word of a command: `RSV ‖ DIR ‖ OP` with `RSV = 0` (R80). -/
def encode (i : Instr) : Word := 0#27 ++ i.dir ++ i.op

/-- What the decoder reads from a command word given as `nbits` bits of a number. A command word is one 32-bit value
carried by the bus (R81, R85), so bit `k` of `w` is bit `k` of the word (log 13). -/
def decodeTableWord (nbits w : Nat) : Option Instr :=
  if nbits ≤ 32 ∧ w < 2 ^ nbits then (decode (BitVec.ofNat 32 w)).toOption else none

end Sys2Proof
end

