-- ==== Sys2Proof/Config.lean ====
section
/-! DEFINITION. What one implementation of the engine fixes (spec/00_scope.md R6): the OPEN parameters `MSG_BYTES` and
`BASE`, and the identification word. -/

namespace Sys2Proof

/-- The open parameters of R6. State carries one value of this type and no transition writes it, so that a
statement about every state is a statement about every capacity and every base address (logs 1, 3). -/
structure Params where
  /-- `MSG_BYTES`, the capacity of MBUF in bytes. -/
  msgBytes : Nat
  /-- `BASE`, the bus address of window offset 0. Every other address of the spec is an offset from it. -/
  base : Nat
deriving DecidableEq, Repr

/-- R6's constraint on `MSG_BYTES`, and that MBUF lies in the 32-bit offset space of R60 (DEDUCED, log 2). R6 constrains `BASE` in no way. -/
def Params.wf (p : Params) : Bool :=
  decide (8 ≤ p.msgBytes) && decide (p.msgBytes % 8 = 0) && decide (0x1000 + p.msgBytes ≤ 2 ^ 32)

namespace Config

/-- `ID_VALUE`, ASCII "DES1" (R6, spec/10_state.md R22). -/
def idValue : BitVec 32 := 0x44455331#32

/-- The parameters of `State.reset`: the capacity of the spec's examples (DESIGN CHOICE, log 1), and the window at bus
address 0 (DESIGN CHOICE, log 3). -/
def exampleParams : Params := { msgBytes := 64, base := 0 }

end Config

end Sys2Proof
end

