-- ==== Sys2Proof/Machine/State.lean ====
section
/-! DEFINITION. The whole state of the engine (spec/10_state.md R20, R40; spec/20_memory.md R61), its reset
(spec/70_reset_and_hazards.md R250), and the ways a step can stop. The last four fields are the model's own: the open
parameter, the host accesses still to come, the turn order and what the host has read (logs 1, 5, 6). -/

namespace Sys2Proof.Machine

/-- The engine phase (R43): `PHASE` values 5, 6 and 7 never occur and have no name (log 17). -/
inductive Phase
  | idle
  | ks
  | load
  | rnd
  | store
deriving DecidableEq, Repr

/-- The error codes of spec/60_exceptions.md R220: codes 7 to 15 are never written and have no name (log 17). -/
inductive ErrCode
  /-- Code 0. -/
  | none
  /-- Code 1: the key is not 8 bytes. -/
  | invalidKeyLength
  /-- Code 2: padding byte missing when required, or not exactly one byte. -/
  | invalidPadding
  /-- Code 3: padded length not a multiple of 8; never raised (spec/43_ecb_codec.md R169). -/
  | alignmentError
  /-- Code 4: ciphertext length not a multiple of 8. -/
  | malformedCiphertext
  /-- Code 5: the word is none of the seven commands. -/
  | illegalCommand
  /-- Code 6: the padded message does not fit in MBUF. -/
  | lengthError
deriving DecidableEq, Repr

/-- `CUR_OP` (R40). -/
inductive CurOp
  | none
  | keygen
  | block
  | crypt
deriving DecidableEq, Repr

/-- `PADCFG.PAD_MODE` (R26). -/
inductive PadMode
  /-- 0: the fill-byte scheme. -/
  | fill
  /-- 1: PKCS#7. -/
  | pkcs7
deriving DecidableEq, Repr

/-- The register `PADCFG` (R26): its reserved bits hold nothing. -/
structure PadCfg where
  byte : Byte
  len : Byte
  present : Bool
  mode : PadMode
deriving DecidableEq, Repr

/-- MBUF (spec/20_memory.md R61): the listed bytes by MBUF offset. -/
abbrev Memory := List Host.Cell

/-- What a byte of MBUF that nothing has written reads as. The spec leaves MBUF unspecified after power-on
(spec/70_reset_and_hazards.md R250): DESIGN CHOICE, unsafe (log 4). -/
def Memory.unlistedByte : Byte := 0#8

/-- The canonical form: offsets strictly rising, and no entry equal to what an unlisted offset reads as. -/
def Memory.wf (m : Memory) : Bool :=
  decide (m.Pairwise fun x y => x.1 < y.1) && m.all fun x => x.2 != Memory.unlistedByte

/-- The state of the machine. -/
structure State where
  /-- The open parameters (model's own field, log 1). -/
  params : Params
  busy : Bool
  done : Bool
  err : Bool
  ovr : Bool
  errCode : ErrCode
  padcfg : PadCfg
  key : Block
  keyLen : Byte
  msgLen : Word
  outLen : Word
  blk : Block
  blkIdx : Word
  ksValid : Bool
  /-- `SK[1..16]`, entry `i` at index `i - 1` (log 18). -/
  sk : Vector Subkey 16
  c : KeyHalf
  d : KeyHalf
  l : Half
  r : Half
  phase : Phase
  round : BitVec 5
  curOp : CurOp
  curDir : Direction
  nblk : Word
  padv : Byte
  lenL : Word
  mbuf : Memory
  /-- What the host will do next, in order (model's own field, log 5). -/
  host : List HostOp
  /-- Who moves at the next steps where both agents are enabled (model's own field, log 6). -/
  turns : List Agent
  /-- The values host reads returned, newest first (model's own field, log 5). -/
  readLog : List Word
deriving DecidableEq, Repr

/-- Why the machine stops with a fault. -/
inductive Fault
  /-- HOST_BUS_FAULT (spec/20_memory.md R65, spec/60_exceptions.md R224): raised by a host access of a wrong width,
  misaligned, or outside the window. The spec asks for this outcome; it is safe, since the model has no run past it
  (log 10). -/
  | hostBusFault
deriving DecidableEq, Repr

/-- Why a step has no meaning. -/
inductive Refusal
  /-- Raised by `exec` for an instruction without a meaning; safe. Every command of this model has its meaning, so no
  arm raises it. -/
  | notModelled (mnemonic : String)
deriving DecidableEq, Repr

/-- The value of `PADCFG` after reset, `0x00010120` (R26, R250). -/
def PadCfg.reset : PadCfg := { byte := 0x20#8, len := 0x01#8, present := true, mode := .fill }

/-- Power-on reset (R250) of an engine with parameters `p`, with MBUF given as an argument (R252). -/
def State.resetWith (p : Params) (mbuf : Memory) : State where
  params := p
  busy := false
  done := false
  err := false
  ovr := false
  errCode := .none
  padcfg := PadCfg.reset
  key := 0#64
  keyLen := 0#8
  msgLen := 0#32
  outLen := 0#32
  blk := 0#64
  blkIdx := 0#32
  ksValid := false
  sk := Vector.replicate 16 0#48
  c := 0#28
  d := 0#28
  l := 0#32
  r := 0#32
  phase := .idle
  round := 0#5
  curOp := .none
  curDir := .encrypt
  nblk := 0#32
  padv := 0#8
  lenL := 0#32
  mbuf := mbuf
  host := []
  turns := []
  readLog := []

/-- The machine right after reset: the capacity of the spec's examples (log 1), nothing listed in MBUF (log 4), and a
host that has nothing to do yet (log 5). -/
def State.reset : State := State.resetWith Config.exampleParams []

end Sys2Proof.Machine
end

