-- ==== Sys2Proof/Machine/Flags.lean ====
section
/-! DEFINITION. The flags of the engine. They live in `STATUS` only (spec/10_state.md R24, R25): the codes its fields
show, the word a read returns, and every flag computation the rules make. -/

namespace Sys2Proof.Machine

/-- The value of `PHASE` (R43). -/
def Phase.code : Phase → BitVec 3
  | .idle => 0#3
  | .ks => 1#3
  | .load => 2#3
  | .rnd => 3#3
  | .store => 4#3

/-- The value of `ERRCODE` (spec/60_exceptions.md R220). -/
def ErrCode.code : ErrCode → BitVec 4
  | .none => 0#4
  | .invalidKeyLength => 1#4
  | .invalidPadding => 2#4
  | .alignmentError => 3#4
  | .malformedCiphertext => 4#4
  | .illegalCommand => 5#4
  | .lengthError => 6#4

/-- The value of the direction bit (spec/30_encoding.md R80). -/
def directionBit : Direction → BitVec 1
  | .encrypt => 0#1
  | .decrypt => 1#1

/-- `STATUS` as a word (R24): reserved ‖ CUR_DIR ‖ ROUND ‖ PHASE ‖ KS_VALID ‖ ERRCODE ‖ OVR ‖ ERR ‖ DONE ‖ BUSY. -/
def State.statusWord (s : State) : Word :=
  0#14 ++ directionBit s.curDir ++ s.round ++ s.phase.code ++ BitVec.ofBool s.ksValid ++ s.errCode.code ++
    BitVec.ofBool s.ovr ++ BitVec.ofBool s.err ++ BitVec.ofBool s.done ++ BitVec.ofBool s.busy

/-- `DONE <- 0; ERR <- 0; ERRCODE <- 0`: what every issue but CLEAR does first (spec/44_commands.md R190). This is
also the only return from an error (spec/60_exceptions.md R228). -/
def State.acknowledge (s : State) : State := { s with done := false, err := false, errCode := .none }

/-- `DONE <- 1` (NOP, R190, R200). -/
def State.complete (s : State) : State := { s with done := true }

/-- `OVR <- 1`: an ignored write changes nothing else (spec/70_reset_and_hazards.md R257). -/
def State.noteOverrun (s : State) : State := { s with ovr := true }

end Sys2Proof.Machine
end

