-- ==== Sys2Proof/Machine/Bits.lean ====
section
/-! DEFINITION. The bit primitives of spec/00_scope.md R8 to R11 and the byte order of spec/20_memory.md R63, R66, R68. -/

namespace Sys2Proof.Machine

/-- `des_n(v, i)` (R8): the element with DES index `i`, index 0 being the most significant bit. -/
def desBit {n : Nat} (v : BitVec n) (i : Nat) : Bool := v.getMsbD i

/-- `Permute(T, v, n)` (R10): `w <- 2*w + v[n-1-T[i]]` for each entry of the table in order. -/
def permute {n : Nat} (m : Nat) (t : List Nat) (v : BitVec n) : BitVec m :=
  BitVec.ofNat m (t.foldl (fun w i => 2 * w + (desBit v i).toNat) 0)

/-- `rotl28(v, k)` (R11): `((v * 2^k) + (v div 2^(28-k))) mod 2^28`. -/
def rotl28 (v : KeyHalf) (k : Nat) : KeyHalf :=
  BitVec.ofNat 28 (v.toNat * 2 ^ k + v.toNat / 2 ^ (28 - k))

/-- `hi32(v) = v[63:32]` (R9). -/
def hi32 (v : Block) : Half := v.extractLsb' 32 32

/-- `lo32(v) = v[31:0]` (R9). -/
def lo32 (v : Block) : Half := v.extractLsb' 0 32

/-- `hi28(v) = v[55:28]` (R9). -/
def hi28 (v : BitVec 56) : KeyHalf := v.extractLsb' 28 28

/-- `lo28(v) = v[27:0]` (R9). -/
def lo28 (v : BitVec 56) : KeyHalf := v.extractLsb' 0 28

/-- The `n` bytes of a value, most significant first (R63; R66 for words, R68 for blocks):
byte `k` is `v[8(n-k)-1 : 8(n-k)-8]`. -/
def bytesOf {w : Nat} (n : Nat) (v : BitVec w) : List Byte :=
  (List.range n).map fun k => v.extractLsb' (8 * (n - k) - 8) 8

/-- The value whose bytes are `bs`, first byte most significant (R63): `x <- x * 256 + byte` for each byte in order. -/
def packBytes (w : Nat) (bs : List Byte) : BitVec w :=
  BitVec.ofNat w (bs.foldl (fun x b => x * 256 + b.toNat) 0)

end Sys2Proof.Machine
end

