-- ==== Sys2Proof/Machine/KeySchedule.lean ====
section
/-! DEFINITION. The key-schedule function (spec/40_keyschedule.md R100 to R105), pure. The engine step that computes one
round of it is in Engine.lean. -/

namespace Sys2Proof.Machine

/-- C0 and D0: PC-1 of the key, split (R100, R103). -/
def keyHalves (k : Block) : KeyHalf × KeyHalf :=
  let cd := permute 56 Tables.pc1 k
  (hi28 cd, lo28 cd)

/-- `SHIFTS[i]`, `1 <= i <= 16` (R104). -/
def shiftCount (i : Nat) : Nat := Tables.shifts.getD (i - 1) 0

/-- Both halves rotated by the count of round `i` (R100 step 3). -/
def rotateHalves (i : Nat) (cd : KeyHalf × KeyHalf) : KeyHalf × KeyHalf :=
  (rotl28 cd.1 (shiftCount i), rotl28 cd.2 (shiftCount i))

/-- The halves after `i` rounds. -/
def halvesAfter : Nat → KeyHalf × KeyHalf → KeyHalf × KeyHalf
  | 0, cd => cd
  | i + 1, cd => rotateHalves (i + 1) (halvesAfter i cd)

/-- PC-2 of `C ‖ D` (R105). -/
def subkeyOf (cd : KeyHalf × KeyHalf) : Subkey := permute 48 Tables.pc2 (cd.1 ++ cd.2)

/-- The 16 subkeys of a pair C0, D0, in forward order. -/
def scheduleOf (cd : KeyHalf × KeyHalf) : List Subkey :=
  (List.range 16).map fun i => subkeyOf (halvesAfter (i + 1) cd)

/-- `KeySchedule(K)` (R100): `[SubKey_1, ..., SubKey_16]`. -/
def keySchedule (k : Block) : List Subkey := scheduleOf (keyHalves k)

/-- Entry `i` of a subkey file, `1 <= i <= 16` (R41). -/
def subkeyEntry (sks : List Subkey) (i : Nat) : Subkey := sks.getD (i - 1) 0#48

/-- The subkey of round `r`: `SK[r]` to encrypt, `SK[17-r]` to decrypt (R109, spec/42_blockcipher.md R144). -/
def subkeyFor (sks : List Subkey) (dir : Direction) (r : Nat) : Subkey :=
  match dir with
  | .encrypt => subkeyEntry sks r
  | .decrypt => subkeyEntry sks (17 - r)

end Sys2Proof.Machine
end

