-- ==== Sys2Proof/Machine/Operands.lean ====
section
/-! DEFINITION. The operands of the commands: what an issue checks and latches (spec/44_commands.md R192,
spec/43_ecb_codec.md R164), and the padded stream a LOAD step reads (spec/43_ecb_codec.md R166). -/

namespace Sys2Proof.Machine

/-- The commands that run on the engine's datapath (R192). -/
inductive Work
  | keygen
  | block (dir : Direction)
  | crypt (dir : Direction)
deriving DecidableEq, Repr

/-- The value of `CUR_OP` for a command (R193). -/
def Work.curOp : Work → CurOp
  | .keygen => .keygen
  | .block _ => .block
  | .crypt _ => .crypt

/-- The value of `CUR_DIR` for a command: 0 for KEYGEN (R193). -/
def Work.curDir : Work → Direction
  | .keygen => .encrypt
  | .block dir => dir
  | .crypt dir => dir

/-- `NBLK` (R164), an unbounded natural number (spec/00_scope.md R12). -/
def blockCount (cmd : Work) (pad : PadCfg) (msgLen : Nat) : Nat :=
  match cmd with
  | .keygen => 0
  | .block _ => 1
  | .crypt .decrypt => msgLen / 8
  | .crypt .encrypt =>
    match pad.mode with
    | .fill => (msgLen + 7) / 8
    | .pkcs7 => msgLen / 8 + 1

/-- `PADV` (R164). -/
def padValue (cmd : Work) (pad : PadCfg) (msgLen : Nat) : Byte :=
  match cmd with
  | .keygen => 0#8
  | .block _ => 0#8
  | .crypt .decrypt => 0#8
  | .crypt .encrypt =>
    match pad.mode with
    | .fill => pad.byte
    | .pkcs7 => BitVec.ofNat 8 (8 * blockCount cmd pad msgLen - msgLen)

/-- The number of pad bytes (R192). -/
def padCount (cmd : Work) (pad : PadCfg) (msgLen : Nat) : Nat :=
  match cmd with
  | .crypt .encrypt => 8 * blockCount cmd pad msgLen - msgLen
  | _ => 0

/-- The issue checks in the order of R192, for an engine of capacity `cap`: the first error that applies, or the block
count and the pad value to latch. The last check is never taken (spec/43_ecb_codec.md R169). The `PAD_LEN` check is made
in mode 0 only, for CRYPT.D too (R192, spec/10_state.md R26), although R172 says that CRYPT.D does not read `PAD_MODE`
(DEDUCED, log 21). -/
def check (cap : Nat) (cmd : Work) (keyLen : Byte) (msgLen : Nat) (pad : PadCfg) : Except ErrCode (Nat × Byte) :=
  if keyLen ≠ 8#8 then .error .invalidKeyLength
  else if cmd.curOp = .crypt ∧ pad.mode = .fill ∧ pad.present = true ∧ pad.len ≠ 1#8 then .error .invalidPadding
  else if cmd = .crypt .decrypt ∧ msgLen % 8 ≠ 0 then .error .malformedCiphertext
  else if cmd = .crypt .encrypt ∧ pad.mode = .fill ∧ msgLen % 8 ≠ 0 ∧ pad.present = false then .error .invalidPadding
  else if 8 * blockCount cmd pad msgLen > cap then .error .lengthError
  else if cmd.curOp = .crypt ∧ (msgLen + padCount cmd pad msgLen) % 8 ≠ 0 then .error .alignmentError
  else .ok (blockCount cmd pad msgLen, padValue cmd pad msgLen)

/-- The checks of an issue, on the registers it reads (R192). -/
def State.checkIssue (s : State) (cmd : Work) : Except ErrCode (Nat × Byte) :=
  check s.params.msgBytes cmd s.keyLen s.msgLen.toNat s.padcfg

/-- `MBUF[a]`. -/
def Memory.read (m : Memory) (a : Nat) : Byte := (m.lookup a).getD Memory.unlistedByte

/-- The `n` bytes of MBUF from offset `a` on, in order. -/
def Memory.readBytes (m : Memory) (a n : Nat) : List Byte := (List.range n).map fun k => m.read (a + k)

/-- Byte `k` of the padded stream (R166): `MBUF[k]` below `LEN_L`, `PADV` from there on. -/
def State.streamByte (s : State) (k : Nat) : Byte := if k < s.lenL.toNat then s.mbuf.read k else s.padv

/-- `PaddedBlock(b)` (R166). -/
def State.paddedBlock (s : State) (b : Nat) : Block :=
  packBytes 64 ((List.range 8).map fun k => s.streamByte (8 * b + k))

/-- The block a LOAD step takes: `BLK` for BLOCK, the padded stream otherwise (spec/42_blockcipher.md R143). -/
def State.loadOperand (s : State) : Block :=
  match s.curOp with
  | .block => s.blk
  | _ => s.paddedBlock s.blkIdx.toNat

end Sys2Proof.Machine
end

