-- ==== Sys2Proof/Machine/Ops.lean ====
section
/-! DEFINITION. The operations the commands and the engine steps share: writing MBUF (spec/20_memory.md R66, R68), the
error completion (spec/60_exceptions.md R222), start and finish (spec/44_commands.md R193, R197), the soft reset
(spec/70_reset_and_hazards.md R251), and the rule for writes while busy (R257). -/

namespace Sys2Proof.Machine

/-- `MBUF[a] <- v`, keeping the canonical form: writing what an unlisted offset reads as removes the entry. -/
def Memory.write : Memory → Nat → Byte → Memory
  | [], a, v => if v = Memory.unlistedByte then [] else [(a, v)]
  | (b, x) :: m, a, v =>
    if a < b then if v = Memory.unlistedByte then (b, x) :: m else (a, v) :: (b, x) :: m
    else if a = b then if v = Memory.unlistedByte then m else (a, v) :: m
    else (b, x) :: Memory.write m a v

/-- Writes bytes in order from offset `a` on. -/
def Memory.writeBytes : Memory → Nat → List Byte → Memory
  | m, _, [] => m
  | m, a, b :: bs => Memory.writeBytes (m.write a b) (a + 1) bs

/-- `MemRead(a, 8)` (R68). -/
def Memory.readBlock (m : Memory) (a : Nat) : Block := packBytes 64 (m.readBytes a 8)

/-- `MemWrite(a, 8, v)` (R68). -/
def Memory.writeBlock (m : Memory) (a : Nat) (v : Block) : Memory := m.writeBytes a (bytesOf 8 v)

/-- `SK[i] <- v`, `1 <= i <= 16` (R41). -/
def State.setSubkey (s : State) (i : Nat) (v : Subkey) : State :=
  { s with sk := if 1 ≤ i then s.sk.setIfInBounds (i - 1) v else s.sk }

/-- Error completion (R222): the one way a command fails. It saves nothing and transfers control nowhere (R227). -/
def State.raiseError (s : State) (e : ErrCode) : State :=
  { s with err := true, errCode := e, done := true, outLen := 0#32 }

/-- `Start(cmd, n, pv)` (R193), with LoadCD (spec/40_keyschedule.md R103). -/
def State.start (s : State) (cmd : Work) (n : Nat) (pv : Byte) : State :=
  { s with
    curOp := cmd.curOp
    curDir := cmd.curDir
    nblk := BitVec.ofNat 32 n
    padv := pv
    lenL := s.msgLen
    ksValid := false
    blkIdx := 0#32
    c := (keyHalves s.key).1
    d := (keyHalves s.key).2
    round := 0#5
    phase := .ks
    busy := true }

/-- `OUT_LEN` at Finish (R197). -/
def State.finishedLength (s : State) : Word :=
  match s.curOp with
  | .crypt => BitVec.ofNat 32 (8 * s.nblk.toNat)
  | .block => 8#32
  | _ => 0#32

/-- `Finish` (R197). -/
def State.finish (s : State) : State :=
  { s with busy := false, done := true, phase := .idle, round := 0#5, outLen := s.finishedLength }

/-- `SoftReset` (R251): every element of R20 but MBUF takes its reset value (R250). The parameter, the host's
accesses, the turn order and the host's record of reads are no elements of R20 and stay. -/
def State.softReset (s : State) : State :=
  { State.resetWith s.params s.mbuf with host := s.host, turns := s.turns, readLog := s.readLog }

/-- A write while busy is ignored and sets `OVR` (R257); while idle it does what `taken` says. -/
def State.unlessBusy (s : State) (taken : State → State) : State := if s.busy then s.noteOverrun else taken s

/-- The issue of a command that runs on the datapath, from `DONE <- 0` to `Start` (R190). -/
def State.issue (cmd : Work) (s : State) : State :=
  let s := { s.acknowledge with outLen := 0#32 }
  match s.checkIssue cmd with
  | .error e => s.raiseError e
  | .ok (n, pv) => s.start cmd n pv

/-- The issue of a word that decodes as illegal (R190, spec/30_encoding.md R84). -/
def State.issueIllegal (s : State) : State := s.acknowledge.raiseError .illegalCommand

end Sys2Proof.Machine
end

