-- ==== Sys2Proof/Machine/Commands.lean ====
section
/-! DEFINITION. The meanings of the seven commands (spec/44_commands.md R200 to R204): what the write of the command's
word to `CMD` does, idle (R190) or busy (spec/70_reset_and_hazards.md R257). A command that starts the datapath then
runs by the engine's steps (R191, Engine.lean). -/

namespace Sys2Proof.Machine

/-- NOP (R200): clears the error indication and sets `DONE`. -/
def execNop (s : State) : Host.Outcome State Fault Refusal :=
  .next (s.unlessBusy fun s => s.acknowledge.complete)

/-- KEYGEN (R201): derives the key schedule only. -/
def execKeygen (s : State) : Host.Outcome State Fault Refusal :=
  .next (s.unlessBusy (State.issue .keygen))

/-- BLOCK.E (R202): encrypts the block in `BLK`. -/
def execBlockE (s : State) : Host.Outcome State Fault Refusal :=
  .next (s.unlessBusy (State.issue (.block .encrypt)))

/-- BLOCK.D (R202): decrypts the block in `BLK`. -/
def execBlockD (s : State) : Host.Outcome State Fault Refusal :=
  .next (s.unlessBusy (State.issue (.block .decrypt)))

/-- CRYPT.E (R203): pads and encrypts the message in MBUF. -/
def execCryptE (s : State) : Host.Outcome State Fault Refusal :=
  .next (s.unlessBusy (State.issue (.crypt .encrypt)))

/-- CRYPT.D (R203): decrypts the message in MBUF. -/
def execCryptD (s : State) : Host.Outcome State Fault Refusal :=
  .next (s.unlessBusy (State.issue (.crypt .decrypt)))

/-- CLEAR (R204): soft reset, idle or busy; it never fails. -/
def execClear (s : State) : Host.Outcome State Fault Refusal :=
  .next s.softReset

end Sys2Proof.Machine
end

