-- ==== Sys2Proof/Machine/Dispatch.lean ====
section
/-! DEFINITION. One arm per command of the opcode table (spec/30_encoding.md R83). -/

namespace Sys2Proof.Machine

def exec (i : Instr) (s : State) : Host.Outcome State Fault Refusal :=
  match i with
  | .nop => Sys2Proof.Machine.execNop s
  | .keygen => Sys2Proof.Machine.execKeygen s
  | .blockE => Sys2Proof.Machine.execBlockE s
  | .blockD => Sys2Proof.Machine.execBlockD s
  | .cryptE => Sys2Proof.Machine.execCryptE s
  | .cryptD => Sys2Proof.Machine.execCryptD s
  | .clear => Sys2Proof.Machine.execClear s

end Sys2Proof.Machine
end

