-- ==== Sys2Proof/Machine/Registers.lean ====
section
/-! DEFINITION. The register map of the window (spec/10_state.md R21 to R37): which register stands at an offset, what a
read of it returns, and what a write to it stores. -/

namespace Sys2Proof.Machine

/-- The registers of R21. -/
inductive Reg
  | id
  | cmd
  | status
  | padcfg
  | keyHi
  | keyLo
  | keyLen
  | msgLen
  | outLen
  | blkHi
  | blkLo
  | cap
  | blkIdx
  | skHi (i : Nat)
  | skLo (i : Nat)
  | dbgC
  | dbgD
  | dbgL
  | dbgR
  | reserved
deriving DecidableEq, Repr

/-- The rows of R21 that stand at one offset each. -/
def regTable : List (Nat × Reg) :=
  [(0x000, .id), (0x004, .cmd), (0x008, .status), (0x00C, .padcfg), (0x010, .keyHi), (0x014, .keyLo),
   (0x018, .keyLen), (0x01C, .msgLen), (0x020, .outLen), (0x024, .blkHi), (0x028, .blkLo), (0x02C, .cap),
   (0x030, .blkIdx)] ++
  [(0x180, .dbgC), (0x184, .dbgD), (0x188, .dbgL), (0x18C, .dbgR)]

/-- The register at an aligned offset below `0x1000` (R21): `SK_HI(i)` at `0x100 + 8*(i-1)` and `SK_LO(i)` at
`0x104 + 8*(i-1)` (R34); reserved where the map names none (R36). -/
def regAt (off : Nat) : Reg :=
  if 0x100 ≤ off ∧ off < 0x180 then
    let i := (off - 0x100) / 8 + 1
    if off % 8 = 0 then .skHi i else .skLo i
  else (regTable.lookup off).getD .reserved

/-- `PAD_MODE` as its bit (R26). -/
def PadMode.bit : PadMode → BitVec 1
  | .fill => 0#1
  | .pkcs7 => 1#1

/-- `PADCFG` as a word (R26). -/
def PadCfg.toWord (p : PadCfg) : Word := 0#14 ++ p.mode.bit ++ BitVec.ofBool p.present ++ p.len ++ p.byte

/-- What a write stores in `PADCFG`: bits [17:0] (R26). -/
def PadCfg.ofWord (w : Word) : PadCfg where
  byte := w.extractLsb' 0 8
  len := w.extractLsb' 8 8
  present := w.getLsbD 16
  mode := if w.getLsbD 17 then .pkcs7 else .fill

/-- The value a read of a register returns. No read has a side effect (R37, spec/20_memory.md R69), and a read while
busy returns the current value (spec/70_reset_and_hazards.md R258). -/
def State.readReg (s : State) : Reg → Word
  | .id => Config.idValue
  | .cmd => 0#32
  | .status => s.statusWord
  | .padcfg => s.padcfg.toWord
  | .keyHi => hi32 s.key
  | .keyLo => lo32 s.key
  | .keyLen => s.keyLen.setWidth 32
  | .msgLen => s.msgLen
  | .outLen => s.outLen
  | .blkHi => hi32 s.blk
  | .blkLo => lo32 s.blk
  | .cap => BitVec.ofNat 32 s.params.msgBytes
  | .blkIdx => s.blkIdx
  | .skHi i => ((subkeyEntry s.sk.toList i).extractLsb' 32 16).setWidth 32
  | .skLo i => (subkeyEntry s.sk.toList i).extractLsb' 0 32
  | .dbgC => s.c.setWidth 32
  | .dbgD => s.d.setWidth 32
  | .dbgL => s.l
  | .dbgR => s.r
  | .reserved => 0#32

/-- What a write to a register does while `BUSY = 0` (R26 to R31, R36, R37). A write to `CMD` issues a command and is
not handled here. -/
def State.writeReg (s : State) (w : Word) : Reg → State
  | .padcfg => { s with padcfg := PadCfg.ofWord w }
  | .keyHi => { s with key := w ++ lo32 s.key }
  | .keyLo => { s with key := hi32 s.key ++ w }
  | .keyLen => { s with keyLen := w.extractLsb' 0 8 }
  | .msgLen => { s with msgLen := w }
  | .blkHi => { s with blk := w ++ lo32 s.blk }
  | .blkLo => { s with blk := hi32 s.blk ++ w }
  | .id | .cmd | .status | .outLen | .cap | .blkIdx | .skHi _ | .skLo _ | .dbgC | .dbgD | .dbgL | .dbgR
  | .reserved => s

end Sys2Proof.Machine
end

