-- ==== Sys2Proof/Machine/Bus.lean ====
section
/-! DEFINITION. Host accesses (spec/20_memory.md R60 to R69): what an offset and a width reach, reads, writes, and the
priority among outcomes (spec/60_exceptions.md R225). -/

namespace Sys2Proof.Machine

/-- What an access reaches. -/
inductive Target
  | register (r : Reg)
  /-- `n` bytes of MBUF from offset `a` on. -/
  | buffer (a n : Nat)
deriving DecidableEq, Repr

/-- What an access of `width` bytes at window offset `off` reaches on an engine of capacity `cap`, or nothing where the
access is not taken (R62, R64). -/
def targetOf (cap off width : Nat) : Option Target :=
  if off < 0x1000 then if width = 4 ∧ off % 4 = 0 then some (.register (regAt off)) else none
  else
    let a := off - 0x1000
    if (width = 1 ∨ (width = 4 ∧ a % 4 = 0)) ∧ a + width ≤ cap then some (.buffer a width) else none

/-- The value a read returns (R66 for MBUF; R81: a byte is zero-extended). -/
def State.readTarget (s : State) : Target → Word
  | .register r => s.readReg r
  | .buffer a n => packBytes 32 (s.mbuf.readBytes a n)

/-- Bytes of the data of a write: the word for width 4, its low byte for width 1 (R66). -/
def writeData (n : Nat) (w : Word) : List Byte := bytesOf n w

/-- What a write other than to `CMD` does while `BUSY = 0` (R225 case 4). -/
def State.writeTarget (s : State) (w : Word) : Target → State
  | .register r => s.writeReg w r
  | .buffer a n => { s with mbuf := s.mbuf.writeBytes a (writeData n w) }

/-- A write to `CMD` (spec/10_state.md R23): the decoded command, or ILLEGAL_COMMAND (spec/44_commands.md R190). While
busy an illegal word is an ignored write like any other (spec/30_encoding.md R84). -/
def commandWrite (w : Word) (s : State) : Host.Outcome State Fault Refusal :=
  match decode w with
  | .ok i => exec i s
  | .error _ => .next (s.unlessBusy State.issueIllegal)

/-- A taken write (R225 cases 2 to 4). -/
def hostWrite (t : Target) (w : Word) (s : State) : Host.Outcome State Fault Refusal :=
  match t with
  | .register .cmd => commandWrite w s
  | t => .next (s.unlessBusy fun s => s.writeTarget w t)

/-- The host records the value a read returned. -/
def State.recordRead (s : State) (v : Word) : State := { s with readLog := v :: s.readLog }

/-- One host access. An access R64 does not take is a bus fault, whatever `BUSY` is (R65, R225 case 1). -/
def busAccess (t : Access) (s : State) : Host.Outcome State Fault Refusal :=
  match targetOf s.params.msgBytes t.off.toNat t.width with
  | none => .fault .hostBusFault
  | some g =>
    match t.rw with
    | .read => .next (s.recordRead (s.readTarget g))
    | .write => hostWrite g t.data s

/-- The window access a bus cycle makes on an engine whose window stands at `BASE` (spec/00_scope.md R6): its offset is
the bus address less `BASE`. An address below `BASE`, or further above it than a 32-bit offset reaches (R60), makes none. -/
def cycleAccess (p : Params) (b : BusCycle) : Option Access :=
  if p.base ≤ b.addr ∧ b.addr - p.base < 2 ^ 32 then
    some { rw := b.rw, off := BitVec.ofNat 32 (b.addr - p.base), width := b.width, data := b.data }
  else none

/-- One bus cycle, by its bus address. A cycle that does not reach this device is a bus fault, like every access outside
the window (R62). -/
def busCycle (b : BusCycle) (s : State) : Host.Outcome State Fault Refusal :=
  match cycleAccess s.params b with
  | none => .fault .hostBusFault
  | some t => busAccess t s

end Sys2Proof.Machine
end

