-- ==== Sys2Proof/Machine/Feistel.lean ====
section
/-! DEFINITION. The Feistel round (spec/41_feistel.md R120 to R126), pure. -/

namespace Sys2Proof.Machine

/-- `Expand(R) = Permute(E_0, R, 32)` (R120). -/
def expand (r : Half) : Subkey := permute 48 Tables.expansion r

/-- `SBOX[j][16*row + col]` (R122). -/
def sboxEntry (j row col : Nat) : Nat := (Tables.sboxes.getD j []).getD (16 * row + col) 0

/-- The row a group of 6 bits addresses: `2 * g[5] + g[0]` (R123). -/
def sboxRow (g : BitVec 6) : Nat := 2 * (g.getLsbD 5).toNat + (g.getLsbD 0).toNat

/-- The column a group of 6 bits addresses: `g[4:1]` (R123). -/
def sboxCol (g : BitVec 6) : Nat := (g.extractLsb' 1 4).toNat

/-- Group `j` of an expanded half: `X[47-6j : 42-6j]` (R123). -/
def sboxGroup (x : Subkey) (j : Nat) : BitVec 6 := x.extractLsb' (42 - 6 * j) 6

/-- The substitution layer (R123): `S <- S * 16 + SBOX[j][16*row + col]` for `j = 0..7`. -/
def sboxLayer (x : Subkey) : Half :=
  BitVec.ofNat 32 ((List.range 8).foldl
    (fun s j => s * 16 + sboxEntry j (sboxRow (sboxGroup x j)) (sboxCol (sboxGroup x j))) 0)

/-- `Pperm(S) = Permute(P_0, S, 32)` (R124). -/
def pperm (s : Half) : Half := permute 32 Tables.roundPerm s

/-- The f-function (R125): `Pperm(SBoxLayer(Expand(R) xor K))`. -/
def feistelF (r : Half) (k : Subkey) : Half := pperm (sboxLayer (expand r ^^^ k))

/-- `FeistelRound(L, R, K) = (R, f(R, K) xor L)` (R126), both from the old halves. -/
def feistelRound (lr : Half × Half) (k : Subkey) : Half × Half := (lr.2, feistelF lr.2 k ^^^ lr.1)

end Sys2Proof.Machine
end

