-- ==== Sys2Proof/Machine/BlockCipher.lean ====
section
/-! DEFINITION. The block transform (spec/42_blockcipher.md R140 to R145), pure. The engine steps that compute it are in
Engine.lean. -/

namespace Sys2Proof.Machine

/-- L0 and R0: IP of the block, split (R140 step 1). -/
def blockHalves (x : Block) : Half × Half :=
  let y := permute 64 Tables.initialPerm x
  (hi32 y, lo32 y)

/-- The halves after `n` rounds (R140 step 2). -/
def roundsAfter (sks : List Subkey) (dir : Direction) : Nat → Half × Half → Half × Half
  | 0, lr => lr
  | n + 1, lr => feistelRound (roundsAfter sks dir n lr) (subkeyFor sks dir (n + 1))

/-- FP of `R ‖ L`: the half swap and the final permutation (R140 steps 3 and 4, R145). -/
def blockOf (lr : Half × Half) : Block := permute 64 Tables.finalPerm (lr.2 ++ lr.1)

/-- `DES(X, SKs, dir)` (R140). -/
def des (x : Block) (sks : List Subkey) (dir : Direction) : Block :=
  blockOf (roundsAfter sks dir 16 (blockHalves x))

/-- `DES_E(X, Key)` and `DES_D(X, Key)` (R140). -/
def desWithKey (x k : Block) (dir : Direction) : Block := des x (keySchedule k) dir

end Sys2Proof.Machine
end

