-- ==== Sys2Proof/Machine/Engine.lean ====
section
/-! DEFINITION. The engine's steps (spec/44_commands.md R191): KS (spec/40_keyschedule.md R107), LOAD, RND and STORE
(spec/42_blockcipher.md R143, R144, R146). No step fails (spec/60_exceptions.md R221). -/

namespace Sys2Proof.Machine

/-- What round 16 of the key schedule adds (R107): the schedule is valid, and the command ends or goes on to LOAD. -/
def State.endSchedule (s : State) : State :=
  if s.curOp = .keygen ∨ s.nblk = 0#32 then State.finish { s with ksValid := true, round := 0#5 }
  else { s with ksValid := true, round := 0#5, phase := .load }

/-- `KS_step` (R107). -/
def State.ksStep (s : State) : State :=
  let i := s.round + 1#5
  let cd := rotateHalves i.toNat (s.c, s.d)
  let s := { s with round := i, c := cd.1, d := cd.2 }
  let s := s.setSubkey i.toNat (subkeyOf cd)
  if i = 16#5 then s.endSchedule else s

/-- `LOAD_step` (R143). -/
def State.loadStep (s : State) : State :=
  let lr := blockHalves s.loadOperand
  { s with l := lr.1, r := lr.2, round := 0#5, phase := .rnd }

/-- `RND_step` (R144). -/
def State.rndStep (s : State) : State :=
  let i := s.round + 1#5
  let lr := feistelRound (s.l, s.r) (subkeyFor s.sk.toList s.curDir i.toNat)
  { s with round := i, l := lr.1, r := lr.2, phase := if i = 16#5 then .store else s.phase }

/-- Where a STORE step puts its block (R146): `BLK` for BLOCK, MBUF otherwise. -/
def State.storeBlock (s : State) (z : Block) : State :=
  { s with
    blk := if s.curOp = .block then z else s.blk
    mbuf := if s.curOp = .block then s.mbuf else s.mbuf.writeBlock (8 * s.blkIdx.toNat) z }

/-- What a STORE step does once the block is stored (R146): count it, then end or load the next block. -/
def State.endStore (s : State) : State :=
  if s.blkIdx + 1#32 = s.nblk then State.finish { s with blkIdx := s.blkIdx + 1#32 }
  else { s with blkIdx := s.blkIdx + 1#32, phase := .load }

/-- `STORE_step` (R146). -/
def State.storeStep (s : State) : State := (s.storeBlock (blockOf (s.l, s.r))).endStore

/-- `EngineStep` (R191). In phase IDLE no step is enabled. -/
def State.engineStep (s : State) : State :=
  match s.phase with
  | .idle => s
  | .ks => s.ksStep
  | .load => s.loadStep
  | .rnd => s.rndStep
  | .store => s.storeStep

end Sys2Proof.Machine
end

