-- ==== Sys2Proof/Machine/Agents.lean ====
section
/-! DEFINITION. The two agents and who moves (spec/00_scope.md R5, spec/20_memory.md R70): the host takes its next
operation (spec/30_encoding.md R87, R88), the engine its next step (spec/44_commands.md R191). -/

namespace Sys2Proof.Machine

/-- Whose turn it is: the engine is enabled while busy (R191), the host while it has something to do. Where both are
enabled the turn order in State says who moves; after its end the engine does (log 6). -/
def nextAgent (s : State) : Option Agent :=
  match s.busy, s.host with
  | false, [] => none
  | false, _ :: _ => some .host
  | true, [] => some .engine
  | true, _ :: _ => some (s.turns.headD .engine)

/-- A choice between two enabled agents uses up one entry of the turn order. -/
def State.takeTurn (s : State) : State :=
  match s.busy, s.host with
  | true, _ :: _ => { s with turns := s.turns.tail }
  | _, _ => s

/-- The host's next operation. `POLL` reads `STATUS` and stays until bit 0 reads 0; `NEXT` reads `OUT_LEN` and then
writes the value to `MSG_LEN` (R88); a stopped procedure leaves out its remaining operations (log 12). -/
def hostMove (s : State) : Host.Outcome State Fault Refusal :=
  match s.host with
  | [] => .next s
  | .access t :: rest => busAccess t { s with host := rest }
  | .poll :: rest =>
    let v := s.readReg .status
    .next ({ s with host := if v.getLsbD 0 then s.host else rest }.recordRead v)
  | .feedLength :: rest =>
    let v := s.readReg .outLen
    .next ({ s with host := .access (Access.wr32 0x01C#32 v) :: rest }.recordRead v)
  | .stopIfError n :: rest =>
    let v := s.readReg .status
    .next ({ s with host := if v.getLsbD 2 then rest.drop n else rest }.recordRead v)

/-- One transition of the machine. With no agent enabled the engine holds its state (spec/60_exceptions.md R240,
log 7). -/
def transition (s : State) : Host.Outcome State Fault Refusal :=
  match nextAgent s with
  | none => .next s
  | some .host => hostMove s.takeTurn
  | some .engine => .next s.takeTurn.engineStep

end Sys2Proof.Machine
end

