-- ==== Sys2Proof/Machine/Procedures.lean ====
section
/-! DEFINITION. The expansions of the host's pseudo-instructions (spec/30_encoding.md R88) and of the composition
procedures (spec/44_commands.md R205 to R208) into host operations. -/

namespace Sys2Proof.Machine

/-- `CMD mnemonic` (R87). -/
def cmdOp (i : Instr) : HostOp := .access (Access.command (encode i))

/-- Key byte `j` as `LDKEY` packs it: 0 where the key has no such byte (R88). -/
def keyBytes (k : List Byte) (from_ : Nat) : List Byte := (List.range 4).map fun j => k.getD (from_ + j) 0#8

/-- `LDKEY` (R88): bytes a short key lacks are 0, bytes beyond 8 are dropped, and the length saturates at 255. -/
def ldkeyOps (k : List Byte) : List HostOp :=
  [.access (Access.wr32 0x010#32 (packBytes 32 (keyBytes k 0))),
   .access (Access.wr32 0x014#32 (packBytes 32 (keyBytes k 4))),
   .access (Access.wr32 0x018#32 (BitVec.ofNat 32 (min k.length 255)))]

/-- The `WR8 MBUF+a, b` writes of `LDMSG`, from offset `a` on (R88). R88 allows the equivalent `WR32` writes as well: one
`WR8` for each byte is this model's choice (DESIGN CHOICE, log 20). -/
def messageWrites : Nat → List Byte → List HostOp
  | _, [] => []
  | a, b :: bs => .access (Access.wr8 (BitVec.ofNat 32 (0x1000 + a)) b) :: messageWrites (a + 1) bs

/-- `LDMSG` (R88). -/
def ldmsgOps (m : List Byte) : List HostOp :=
  messageWrites 0 m ++ [.access (Access.wr32 0x01C#32 (BitVec.ofNat 32 m.length))]

/-- The word `PAD` writes to `PADCFG` (R88). -/
def padWord : PadArg → Word
  | .fill b => 0x00010100#32 + b.setWidth 32
  | .absent => 0x00000000#32
  | .bad len => 0x00010000#32 + len.setWidth 32 * 0x100#32
  | .pkcs7 => 0x00020000#32

/-- `PAD` (R88). -/
def padOps (p : PadArg) : List HostOp := [.access (Access.wr32 0x00C#32 (padWord p))]

/-- The pad setting of a composition that names none, `PAD 0x20` (spec/44_commands.md R205), and of `ENCRYPT` and
`DECRYPT` (R88). -/
def defaultPad : PadArg := .fill 0x20#8

/-- CRYPT in a direction. -/
def cryptInstr : Direction → Instr
  | .encrypt => .cryptE
  | .decrypt => .cryptD

/-- `CRYPTX m, dir, k, p` (R88); `ENCRYPT` and `DECRYPT` are the cases with `PAD 0x20`. -/
def cryptxOps (m : List Byte) (dir : Direction) (k : List Byte) (p : PadArg) : List HostOp :=
  ldmsgOps m ++ ldkeyOps k ++ padOps p ++ [cmdOp (cryptInstr dir), .poll]

/-- `STAGE(k, w)` before the operations `rest` of the same procedure (spec/44_commands.md section 3): `LDKEY k; NEXT;
CMD w; POLL; stop if ERR`, without `NEXT` in the first stage. -/
def stage (first : Bool) (k : List Byte) (dir : Direction) (rest : List HostOp) : List HostOp :=
  ldkeyOps k ++ (if first then [] else [.feedLength]) ++
    [cmdOp (cryptInstr dir), .poll, .stopIfError rest.length] ++ rest

/-- The expansion of every pseudo-instruction and procedure. -/
def expandPseudo : Pseudo → List HostOp
  | .poll => [.poll]
  | .ldkey k => ldkeyOps k
  | .ldmsg m => ldmsgOps m
  | .pad p => padOps p
  | .next => [.feedLength]
  | .encrypt m k => cryptxOps m .encrypt k defaultPad
  | .decrypt c k => cryptxOps c .decrypt k defaultPad
  | .cryptx m dir k p => cryptxOps m dir k p
  | .ddesE m k1 k2 p =>
    ldmsgOps m ++ padOps (p.getD defaultPad) ++ stage true k1 .encrypt (padOps .absent ++ stage false k2 .encrypt [])
  | .ddesD c k1 k2 =>
    ldmsgOps c ++ padOps .absent ++ stage true k2 .decrypt (stage false k1 .decrypt [])
  | .tdesE m k1 k2 k3 p =>
    ldmsgOps m ++ padOps (p.getD defaultPad) ++ stage true k1 .encrypt
      (padOps .absent ++ stage false k2 .encrypt (stage false (k3.getD k1) .encrypt []))
  | .tdesD c k1 k2 k3 =>
    ldmsgOps c ++ padOps .absent ++ stage true (k3.getD k1) .decrypt
      (stage false k2 .decrypt (stage false k1 .decrypt []))

end Sys2Proof.Machine
end

