-- ==== Sys2Proof/Machine/Step.lean ====
section
/-! DEFINITION. One step of the machine: one atomic transition of the total order of spec/20_memory.md R70. -/

namespace Sys2Proof.Machine

/-- One atomic transition: a host operation or an engine step. -/
def step (s : State) : Host.Outcome State Fault Refusal := transition s

/-- The state whose very next step presents the command word `w` to `CMD`. The machine fetches no code (spec/20_memory.md
R74): its commands come from the host, so the word's write goes to the front of the host's operations, and where the
engine is busy the next turn goes to the host (log 5). -/
def State.withFetchWord (s : State) (nbits w : Nat) : State :=
  { s with
    host := .access (Access.command (BitVec.ofNat 32 (w % 2 ^ nbits))) :: s.host
    turns := if s.busy then .host :: s.turns else s.turns }

/-- The state whose next operations are those of a pseudo-instruction (spec/30_encoding.md R88). -/
def State.withPseudo (s : State) (p : Pseudo) : State := { s with host := expandPseudo p ++ s.host }

end Sys2Proof.Machine
end

