-- ==== Sys2Proof/Machine/Codec.lean ====
section
/-! DEFINITION. The ECB codec as a function on byte strings (spec/43_ecb_codec.md R160 to R173) and the composition
procedures' results (spec/44_commands.md R205 to R208), pure. What the engine computes in MBUF is stated against it. -/

namespace Sys2Proof.Machine

/-- `PadFill(M, b, present)` (R163). -/
def padFill (m : List Byte) (b : Byte) (present : Bool) : Except ErrCode (List Byte) :=
  if m.length % 8 = 0 then .ok m
  else if present then .ok (m ++ List.replicate (8 - m.length % 8) b)
  else .error .invalidPadding

/-- `PadPkcs7(M)` (R165). -/
def padPkcs7 (m : List Byte) : List Byte :=
  m ++ List.replicate (8 - m.length % 8) (BitVec.ofNat 8 (8 - m.length % 8))

/-- `Pad(M, dir, pad)` (R160). -/
def padMessage (m : List Byte) (dir : Direction) (pad : PadCfg) : Except ErrCode (List Byte) :=
  match dir with
  | .decrypt => .ok m
  | .encrypt =>
    match pad.mode with
    | .fill => padFill m pad.byte pad.present
    | .pkcs7 => .ok (padPkcs7 m)

/-- `X_b`: block `b` of a padded message (R160, spec/20_memory.md R63). -/
def messageBlock (p : List Byte) (b : Nat) : Block := packBytes 64 ((p.drop (8 * b)).take 8)

/-- `bytes(Z_0) ++ ... ++ bytes(Z_{n-1})`: the block loop over a padded message (R160, R167, R168). -/
def cryptBlocks (p : List Byte) (dir : Direction) (k : Block) : List Byte :=
  (List.range (p.length / 8)).flatMap fun b => bytesOf 8 (desWithKey (messageBlock p b) k dir)

/-- `Crypt(M, dir, K, pad)` (R160). -/
def crypt (m : List Byte) (dir : Direction) (k : Block) (pad : PadCfg) : Except ErrCode (List Byte) :=
  match padMessage m dir pad with
  | .error e => .error e
  | .ok p => .ok (cryptBlocks p dir k)

/-- The pad setting of the stages after the first, `PAD none` (spec/44_commands.md section 3). -/
def PadCfg.absent : PadCfg := { byte := 0#8, len := 0#8, present := false, mode := .fill }

/-- The pad setting of a composition that names none, `PAD 0x20` (spec/44_commands.md R205). -/
def PadCfg.default : PadCfg := { byte := 0x20#8, len := 1#8, present := true, mode := .fill }

/-- One more stage of a composition: the result of the stage before, passed on (spec/44_commands.md section 3). -/
def nextStage (x : Except ErrCode (List Byte)) (dir : Direction) (k : Block) : Except ErrCode (List Byte) :=
  match x with
  | .error e => .error e
  | .ok m => crypt m dir k PadCfg.absent

/-- The result of DDES.E (R205): an omitted pad setting is `PAD 0x20`. -/
def doubleEncrypt (m : List Byte) (k1 k2 : Block) (pad : Option PadCfg) : Except ErrCode (List Byte) :=
  nextStage (crypt m .encrypt k1 (pad.getD PadCfg.default)) .encrypt k2

/-- The result of DDES.D (R206). -/
def doubleDecrypt (c : List Byte) (k1 k2 : Block) : Except ErrCode (List Byte) :=
  nextStage (crypt c .decrypt k2 PadCfg.absent) .decrypt k1

/-- The result of TDES.E (R207): an omitted third key is the first key, an omitted pad setting `PAD 0x20`. -/
def tripleEncrypt (m : List Byte) (k1 k2 : Block) (k3 : Option Block) (pad : Option PadCfg) :
    Except ErrCode (List Byte) :=
  nextStage (nextStage (crypt m .encrypt k1 (pad.getD PadCfg.default)) .encrypt k2) .encrypt (k3.getD k1)

/-- The result of TDES.D (R208): an omitted third key is the first key. -/
def tripleDecrypt (c : List Byte) (k1 k2 : Block) (k3 : Option Block) : Except ErrCode (List Byte) :=
  nextStage (nextStage (crypt c .decrypt (k3.getD k1) PadCfg.absent) .decrypt k2) .decrypt k1

end Sys2Proof.Machine
end

