-- ==== Sys2Proof/WellFormed.lean ====
section
/-! DEFINITION. Which terms the spec calls legal: command words by the field rules of spec/30_encoding.md R80 and R84,
bus transactions by spec/20_memory.md R62 and R64, pseudo-instructions by R88. The decoder and the bus are written
from other rules (R83, R86; R21, R64), so that their agreement with these checks is a claim, not a definition. -/

namespace Sys2Proof

/-- A command has no operand field (R80), so every `Instr` is a legal command; what can be ill-formed is a word
(`wordLegal`), a bus transaction (`Access.wf`) or a pseudo-instruction (`Pseudo.wf`). -/
def Instr.wf (_ : Instr) : Bool := true

/-- R80's field rules for a defined command word: `RSV = 0`; `OP` is 0, 1, 2, 3 or 15; `DIR = 1` only where `OP` is
BLOCK or CRYPT. -/
def wordLegal (w : Word) : Bool :=
  (w.extractLsb' 5 27 == 0#27) &&
  [0#4, 1#4, 2#4, 3#4, 15#4].contains (w.extractLsb' 0 4) &&
  (!(w.getLsbD 4) || [2#4, 3#4].contains (w.extractLsb' 0 4))

/-- The accesses the engine takes (R64, and R62 for the end of the window): a register offset takes an aligned access
of 4 bytes; MBUF takes one byte anywhere and 4 bytes at a multiple of 4. -/
def Access.wf (p : Params) (t : Access) : Bool :=
  if t.off.toNat < 0x1000 then t.width == 4 && t.off.toNat % 4 == 0
  else (t.width == 1 || (t.width == 4 && t.off.toNat % 4 == 0)) &&
    decide (t.off.toNat + t.width ≤ 0x1000 + p.msgBytes)

/-- `PAD bad(len)` has a length other than 1 (R88). -/
def PadArg.wf : PadArg → Bool
  | .fill _ => true
  | .absent => true
  | .bad len => len != 1#8
  | .pkcs7 => true

/-- `LDMSG` needs the message to fit in MBUF (R88); so does every pseudo-instruction that expands to it. -/
def Pseudo.wf (p : Params) : Pseudo → Bool
  | .poll => true
  | .ldkey _ => true
  | .ldmsg m => decide (m.length ≤ p.msgBytes)
  | .pad a => a.wf
  | .next => true
  | .encrypt m _ => decide (m.length ≤ p.msgBytes)
  | .decrypt c _ => decide (c.length ≤ p.msgBytes)
  | .cryptx m _ _ a => decide (m.length ≤ p.msgBytes) && a.wf
  | .ddesE m _ _ a => decide (m.length ≤ p.msgBytes) && a.all PadArg.wf
  | .ddesD c _ _ => decide (c.length ≤ p.msgBytes)
  | .tdesE m _ _ _ a => decide (m.length ≤ p.msgBytes) && a.all PadArg.wf
  | .tdesD c _ _ _ => decide (c.length ≤ p.msgBytes)

end Sys2Proof
end

