-- ==== Sys2Proof/Safety.lean ====
section
/-! DEFINITION. What counts as a sound state of the engine, in the terms claims use: the invariants the spec derives or
asks a model to check (spec/10_state.md R24, R33, R43, R44; spec/20_memory.md R68; spec/40_keyschedule.md R110), the steps a
command has left (spec/70_reset_and_hazards.md R265), and what of the state a running command can see (R191). -/

namespace Sys2Proof.Safety

open Sys2Proof.Machine

/-- The capacity is one R6 allows. -/
abbrev CapacityOk (s : State) : Prop := s.params.wf = true

/-- MBUF is in canonical form and lists no offset beyond its capacity. -/
abbrev MemoryOk (s : State) : Prop := s.mbuf.wf = true ∧ ∀ x ∈ s.mbuf, x.1 < s.params.msgBytes

/-- R24: `BUSY = 1` exactly when `PHASE != IDLE`; `ERRCODE` is 0 exactly when `ERR = 0`; an error is a completion;
while busy no completion, error or output is reported; ALIGNMENT_ERROR is never reported (spec/43_ecb_codec.md R169). -/
abbrev StatusOk (s : State) : Prop :=
  (s.busy = true ↔ s.phase ≠ .idle) ∧
  (s.err = true ↔ s.errCode ≠ .none) ∧
  (s.err = true → s.done = true) ∧
  (s.busy = true → s.done = false ∧ s.err = false ∧ s.outLen = 0#32) ∧
  s.errCode ≠ .alignmentError ∧
  (s.outLen = 0#32 ∨ s.outLen = s.finishedLength)

/-- R44, R110, R33: the counters and the schedule flag in each phase. In LOAD, `ROUND` is 0 before the first block and
16 after a STORE (log 8). -/
abbrev SequenceOk (s : State) : Prop :=
  (s.phase = .idle → s.round = 0#5 ∧ s.blkIdx = s.nblk) ∧
  (s.phase = .ks → s.round.toNat < 16 ∧ s.ksValid = false ∧ s.blkIdx = 0#32) ∧
  (s.phase = .load → (s.round = 0#5 ∨ s.round = 16#5)) ∧
  (s.phase = .rnd → s.round.toNat < 16) ∧
  (s.phase = .store → s.round = 16#5) ∧
  (s.phase = .load ∨ s.phase = .rnd ∨ s.phase = .store → s.ksValid = true ∧ s.blkIdx.toNat < s.nblk.toNat)

/-- The latches fit the command (spec/43_ecb_codec.md R164), and every block lies in MBUF (spec/20_memory.md R68). -/
abbrev CommandOk (s : State) : Prop :=
  8 * s.nblk.toNat ≤ s.params.msgBytes ∧
  (s.curOp = .none → s.phase = .idle ∧ s.nblk = 0#32) ∧
  (s.curOp = .keygen → s.nblk = 0#32) ∧
  (s.curOp = .block → s.nblk = 1#32) ∧
  (s.curOp = .crypt → s.lenL.toNat ≤ 8 * s.nblk.toNat ∧ 8 * s.nblk.toNat ≤ s.lenL.toNat + 8)

/-- The invariant of the machine. -/
abbrev Inv (s : State) : Prop := CapacityOk s ∧ MemoryOk s ∧ StatusOk s ∧ SequenceOk s ∧ CommandOk s

/-- R110: while `KS_VALID = 1` the subkey file is the complete schedule of the halves in `C` and `D` (which are C0 and D0
again after round 16, R111); during the KS phase the entries made so far are those of the halves the command started
from. -/
def ScheduleInv (s : State) : Prop :=
  (s.ksValid = true → s.sk.toList = scheduleOf (s.c, s.d)) ∧
  (s.phase = .ks → ∃ cd : KeyHalf × KeyHalf, (s.c, s.d) = halvesAfter s.round.toNat cd ∧
    ∀ i, 1 ≤ i → i ≤ s.round.toNat → subkeyEntry s.sk.toList i = subkeyOf (halvesAfter i cd))

/-- The engine steps a running command has left (spec/70_reset_and_hazards.md R265): 16 for the schedule, 18 for each
block. -/
def stepsLeft (s : State) : Nat :=
  match s.phase with
  | .idle => 0
  | .ks => (16 - s.round.toNat) + 18 * s.nblk.toNat
  | .load => 18 * (s.nblk.toNat - s.blkIdx.toNat)
  | .rnd => (16 - s.round.toNat) + 1 + 18 * (s.nblk.toNat - s.blkIdx.toNat - 1)
  | .store => 1 + 18 * (s.nblk.toNat - s.blkIdx.toNat - 1)

/-- The state less what no command reads: the overrun flag, and the model's own record of the host. -/
def commandView (s : State) : State := { s with ovr := false, host := [], turns := [], readLog := [] }

/-- The write of the CLEAR word to `CMD`, the one write taken while busy (R257). -/
def isClearWrite (t : Access) : Bool := t == Access.command (encode .clear)

/-- A host program that writes no CLEAR. -/
def noClear (ops : List HostOp) : Bool :=
  ops.all fun op =>
    match op with
    | .access t => !isClearWrite t
    | .poll => true
    | .feedLength => true
    | .stopIfError _ => true

end Sys2Proof.Safety
end

