-- ==== Sys2Proof/Certificates/Slice0/Obligations.lean ====
section
/-! DEFINITION. The statements for the provers: what the commands, the engine's steps, the bus and the whole machine do,
from the numbered rules of spec/. Each docstring names the rules. -/

open Sys2Proof Sys2Proof.Machine Sys2Proof.Safety

/-! ## Encoding -/

/-- R83, R86: exactly the seven words decode, each to its command, matched on all 32 bits. -/
def Obligations.DecodeReadsExactlyTheSevenWords : Prop :=
  ∀ (w : Word) (i : Instr), decode w = .ok i ↔
    (w = 0x00000000#32 ∧ i = .nop) ∨ (w = 0x00000001#32 ∧ i = .keygen) ∨ (w = 0x00000002#32 ∧ i = .blockE) ∨
    (w = 0x00000012#32 ∧ i = .blockD) ∨ (w = 0x00000003#32 ∧ i = .cryptE) ∨ (w = 0x00000013#32 ∧ i = .cryptD) ∨
    (w = 0x0000000F#32 ∧ i = .clear)

/-- R80, R84: a word decodes to a command exactly when its fields are legal, and the others fall into R84's groups. -/
def Obligations.DecodeAcceptsExactlyTheLegalWords : Prop :=
  ∀ w : Word,
    ((∃ i, decode w = .ok i) ↔ wordLegal w = true) ∧
    (rsvField w ≠ 0#27 → decode w = .error .reservedBits) ∧
    (rsvField w = 0#27 → 4 ≤ (opField w).toNat → (opField w).toNat ≤ 14 → decode w = .error .reservedOp) ∧
    (rsvField w = 0#27 → dirField w = true → (opField w = 0#4 ∨ opField w = 1#4 ∨ opField w = 15#4) →
      decode w = .error .directionNotDefined)

/-- R80, R83: a command's word, laid out from its fields, decodes to that command. -/
def Obligations.EncodedCommandDecodesToItself : Prop :=
  ∀ i : Instr, decode (encode i) = .ok i ∧ decodeTableWord 32 (encode i).toNat = some i

/-! ## A step runs the presented command -/

/-- R190, R191: where the host moves and its next operation presents a word that decodes to `i`, the step is `exec i` on
the state with that operation taken. The host's list and the turns are the model's (logs 5, 6). -/
def Obligations.StepRunsThePresentedCommand : Prop :=
  ∀ (s : State) (w : Word) (i : Instr) (rest : List HostOp),
    s.host = .access (Access.command w) :: rest → nextAgent s = some .host → decode w = .ok i →
    step s = exec i { s.takeTurn with host := rest }

/-- The same for the state made to run one word next (log 5): the step is `exec i` on the state itself. -/
def Obligations.StepRunsTheFetchedWord : Prop :=
  ∀ (s : State) (w : Word) (i : Instr), decode w = .ok i → step (s.withFetchWord 32 w.toNat) = exec i s

/-- R84, R190, R257: an illegal word fails with ILLEGAL_COMMAND while idle and is an ignored write while busy. The word
is presented as in log 5. -/
def Obligations.IllegalWordFailsIdleAndIsIgnoredBusy : Prop :=
  ∀ (s : State) (w : Word), wordLegal w = false →
    step (s.withFetchWord 32 w.toNat) = .next
      (if s.busy then { s with ovr := true }
       else { s with done := true, err := true, errCode := .illegalCommand, outLen := 0#32 })

/-- R191, R240: where the engine moves, the step is the engine's step; with nothing for the host to do, a busy engine
moves and an idle one holds its state. Which agent moves is the model's choice `turns` (log 6); that an idle machine
with nothing to do answers its own state is log 7. -/
def Obligations.EngineStepsWhileBusyAndHoldsWhileIdle : Prop :=
  ∀ s : State,
    (nextAgent s = some .engine → step s = .next s.takeTurn.engineStep) ∧
    (s.host = [] → s.busy = true → step s = .next s.engineStep) ∧
    (s.host = [] → s.busy = false → step s = .next s)

/-! ## The bus -/

/-- R62, R64, R65, R224: an access faults exactly when it is not taken, whatever `BUSY` is; no step faults otherwise. That
a whole 32-bit access must lie below the end of the window, for every capacity, is log 10 (R62 speaks of its offset). R6,
R60: a bus cycle at `BASE` plus an offset is the access at that offset, and one outside the window faults. -/
def Obligations.BusFaultsExactlyOnAccessesNotTaken : Prop :=
  (∀ (t : Access) (s : State), busAccess t s = .fault .hostBusFault ↔ t.wf s.params = false) ∧
  (∀ (s : State) (f : Fault), step s = .fault f →
    ∃ t rest, s.host = .access t :: rest ∧ t.wf s.params = false) ∧
  (∀ (t : Access) (s : State),
    busCycle { rw := t.rw, addr := s.params.base + t.off.toNat, width := t.width, data := t.data } s = busAccess t s) ∧
  (∀ (b : BusCycle) (s : State), b.addr < s.params.base ∨ s.params.base + 0x1000 + s.params.msgBytes ≤ b.addr →
    busCycle b s = .fault .hostBusFault)

/-- No step is refused: every command has its meaning. -/
def Obligations.NoStepIsRefused : Prop :=
  ∀ (s : State) (r : Refusal), step s ≠ .refused r

/-- R37, R69, R258: a read changes nothing but the host's record of it, idle or busy, and reading again returns the
same value. The host's record is the model's own (log 5). -/
def Obligations.ReadsHaveNoSideEffect : Prop :=
  ∀ (t : Access) (s : State), t.rw = .read → t.wf s.params = true →
    ∃ v, busAccess t s = .next (s.recordRead v) ∧
      busAccess t (s.recordRead v) = .next ((s.recordRead v).recordRead v)

/-- R26 to R29, R31: what a write to each read-write register stores while idle, and what it reads as after. -/
def Obligations.RegisterWritesStoreTheirFields : Prop :=
  ∀ (s : State) (w : Word), s.busy = false →
    (busAccess (Access.wr32 0x00C#32 w) s = .next { s with padcfg :=
        { byte := w.extractLsb' 0 8, len := w.extractLsb' 8 8, present := w.getLsbD 16,
          mode := if w.getLsbD 17 then .pkcs7 else .fill } }) ∧
    (PadCfg.ofWord w).toWord = w &&& 0x0003FFFF#32 ∧
    (busAccess (Access.wr32 0x010#32 w) s = .next { s with key := w ++ s.key.extractLsb' 0 32 }) ∧
    (busAccess (Access.wr32 0x014#32 w) s = .next { s with key := s.key.extractLsb' 32 32 ++ w }) ∧
    (busAccess (Access.wr32 0x018#32 w) s = .next { s with keyLen := w.extractLsb' 0 8 }) ∧
    (busAccess (Access.wr32 0x01C#32 w) s = .next { s with msgLen := w }) ∧
    (busAccess (Access.wr32 0x024#32 w) s = .next { s with blk := w ++ s.blk.extractLsb' 0 32 }) ∧
    (busAccess (Access.wr32 0x028#32 w) s = .next { s with blk := s.blk.extractLsb' 32 32 ++ w })

/-- R22 to R35: what a 32-bit read of each defined offset returns, idle or busy. -/
def Obligations.RegisterReadsReturnTheirFields : Prop :=
  ∀ s : State,
    busAccess (Access.rd32 0x000#32) s = .next (s.recordRead 0x44455331#32) ∧
    busAccess (Access.rd32 0x004#32) s = .next (s.recordRead 0#32) ∧
    busAccess (Access.rd32 0x008#32) s = .next (s.recordRead s.statusWord) ∧
    busAccess (Access.rd32 0x00C#32) s = .next (s.recordRead s.padcfg.toWord) ∧
    busAccess (Access.rd32 0x010#32) s = .next (s.recordRead (s.key.extractLsb' 32 32)) ∧
    busAccess (Access.rd32 0x014#32) s = .next (s.recordRead (s.key.extractLsb' 0 32)) ∧
    busAccess (Access.rd32 0x018#32) s = .next (s.recordRead (s.keyLen.setWidth 32)) ∧
    busAccess (Access.rd32 0x01C#32) s = .next (s.recordRead s.msgLen) ∧
    busAccess (Access.rd32 0x020#32) s = .next (s.recordRead s.outLen) ∧
    busAccess (Access.rd32 0x024#32) s = .next (s.recordRead (s.blk.extractLsb' 32 32)) ∧
    busAccess (Access.rd32 0x028#32) s = .next (s.recordRead (s.blk.extractLsb' 0 32)) ∧
    busAccess (Access.rd32 0x02C#32) s = .next (s.recordRead (BitVec.ofNat 32 s.params.msgBytes)) ∧
    busAccess (Access.rd32 0x030#32) s = .next (s.recordRead s.blkIdx) ∧
    busAccess (Access.rd32 0x180#32) s = .next (s.recordRead (s.c.setWidth 32)) ∧
    busAccess (Access.rd32 0x184#32) s = .next (s.recordRead (s.d.setWidth 32)) ∧
    busAccess (Access.rd32 0x188#32) s = .next (s.recordRead s.l) ∧
    busAccess (Access.rd32 0x18C#32) s = .next (s.recordRead s.r) ∧
    ∀ i : Fin 16,
      busAccess (Access.rd32 (BitVec.ofNat 32 (0x100 + 8 * i.val))) s =
        .next (s.recordRead ((s.sk[i.val].extractLsb' 32 16).setWidth 32)) ∧
      busAccess (Access.rd32 (BitVec.ofNat 32 (0x104 + 8 * i.val))) s =
        .next (s.recordRead (s.sk[i.val].extractLsb' 0 32))

/-- R36, R37: while idle, a write to a read-only register or a reserved offset changes nothing; a reserved offset reads
0, idle or busy. -/
def Obligations.ReadOnlyAndReservedOffsetsIgnoreWrites : Prop :=
  (∀ (s : State) (off w : Word), s.busy = false → off.toNat < 0x1000 → off.toNat % 4 = 0 →
    off ∉ [0x004#32, 0x00C#32, 0x010#32, 0x014#32, 0x018#32, 0x01C#32, 0x024#32, 0x028#32] →
    busAccess (Access.wr32 off w) s = .next s) ∧
  (∀ (s : State) (off : Word), off.toNat % 4 = 0 →
    (0x034 ≤ off.toNat ∧ off.toNat < 0x100) ∨ (0x190 ≤ off.toNat ∧ off.toNat < 0x1000) →
    busAccess (Access.rd32 off) s = .next (s.recordRead 0#32))

/-- R257, R264: while busy, a taken write other than CLEAR to `CMD` changes nothing but `OVR`, and CLEAR ends the
command; `OVR` stays 1 over every step that is not a CLEAR. -/
def Obligations.WritesWhileBusyOnlySetOverrun : Prop :=
  (∀ (t : Access) (s : State), s.busy = true → t.rw = .write → t.wf s.params = true → isClearWrite t = false →
    busAccess t s = .next { s with ovr := true }) ∧
  (∀ s : State, s.busy = true → busAccess (Access.command 0x0000000F#32) s = .next s.softReset) ∧
  (∀ s t : State, s.ovr = true → step s = .next t →
    t.ovr = true ∨ ∃ rest, s.host = .access (Access.command 0x0000000F#32) :: rest)

/-- R66: the bytes of MBUF a host write leaves, big-endian, every other byte and register unchanged; what a read
returns; and that a write while busy is ignored. The premise on the capacity bounds it from above as well (log 2). -/
def Obligations.HostBufferAccessesAreBigEndian : Prop :=
  ∀ (s : State) (a : Nat), s.params.wf = true → s.mbuf.wf = true →
    (a < s.params.msgBytes →
      (∀ b : Byte, s.busy = false → ∃ m, busAccess (Access.wr8 (BitVec.ofNat 32 (0x1000 + a)) b) s =
          .next { s with mbuf := m } ∧ ∀ a', m.read a' = if a' = a then b else s.mbuf.read a') ∧
      (∀ b : Byte, s.busy = true →
        busAccess (Access.wr8 (BitVec.ofNat 32 (0x1000 + a)) b) s = .next { s with ovr := true }) ∧
      busAccess (Access.rd8 (BitVec.ofNat 32 (0x1000 + a))) s =
        .next (s.recordRead ((s.mbuf.read a).setWidth 32))) ∧
    (a % 4 = 0 → a + 4 ≤ s.params.msgBytes →
      (∀ w : Word, s.busy = false → ∃ m, busAccess (Access.wr32 (BitVec.ofNat 32 (0x1000 + a)) w) s =
          .next { s with mbuf := m } ∧ m.read a = w.extractLsb' 24 8 ∧ m.read (a + 1) = w.extractLsb' 16 8 ∧
          m.read (a + 2) = w.extractLsb' 8 8 ∧ m.read (a + 3) = w.extractLsb' 0 8 ∧
          ∀ a', a' < a ∨ a + 4 ≤ a' → m.read a' = s.mbuf.read a') ∧
      (∀ w : Word, s.busy = true →
        busAccess (Access.wr32 (BitVec.ofNat 32 (0x1000 + a)) w) s = .next { s with ovr := true }) ∧
      busAccess (Access.rd32 (BitVec.ofNat 32 (0x1000 + a))) s =
        .next (s.recordRead (s.mbuf.read a ++ s.mbuf.read (a + 1) ++ s.mbuf.read (a + 2) ++ s.mbuf.read (a + 3))))

/-- R24, R43, R220: the fields of `STATUS`, with the phase numbers 0 to 4 and the error codes 0 to 6 written out. -/
def Obligations.StatusShowsItsFields : Prop :=
  ∀ s : State,
    s.statusWord.getLsbD 0 = s.busy ∧ s.statusWord.getLsbD 1 = s.done ∧ s.statusWord.getLsbD 2 = s.err ∧
    s.statusWord.getLsbD 3 = s.ovr ∧
    (s.statusWord.extractLsb' 4 4).toNat = (match s.errCode with
      | .none => 0
      | .invalidKeyLength => 1
      | .invalidPadding => 2
      | .alignmentError => 3
      | .malformedCiphertext => 4
      | .illegalCommand => 5
      | .lengthError => 6) ∧
    s.statusWord.getLsbD 8 = s.ksValid ∧
    (s.statusWord.extractLsb' 9 3).toNat = (match s.phase with
      | .idle => 0
      | .ks => 1
      | .load => 2
      | .rnd => 3
      | .store => 4) ∧
    s.statusWord.extractLsb' 12 5 = s.round ∧ (s.statusWord.getLsbD 17 = true ↔ s.curDir = .decrypt) ∧
    s.statusWord.extractLsb' 18 14 = 0#14

/-! ## The commands -/

/-- R200: NOP while idle clears the error indication, sets `DONE` and changes nothing else. -/
def Obligations.NopClearsTheErrorIndication : Prop :=
  (∀ s : State, s.busy = false → exec .nop s = .next { s with done := true, err := false, errCode := .none }) ∧
  (let s := { State.reset with done := true, err := true, errCode := .invalidKeyLength }
   s.statusWord = 0x00000016#32 ∧
    exec .nop s = .next { s with err := false, errCode := .none } ∧
    State.statusWord { s with err := false, errCode := .none } = 0x00000002#32)

/-- R190, R192, R193, R201: KEYGEN with an 8-byte key is issued. -/
def Obligations.KeygenIssueStartsTheSchedule : Prop :=
  ∀ s : State, s.busy = false → s.keyLen = 8#8 →
    exec .keygen s = .next { s with
      busy := true, done := false, err := false, errCode := .none, outLen := 0#32, curOp := .keygen,
      curDir := .encrypt, nblk := 0#32, padv := 0#8, lenL := s.msgLen, ksValid := false, blkIdx := 0#32,
      c := (keyHalves s.key).1, d := (keyHalves s.key).2, round := 0#5, phase := .ks }

/-- R190, R192, R193, R202: BLOCK.E and BLOCK.D with an 8-byte key are issued. The capacity holds a block (R6; log 2). -/
def Obligations.BlockIssueStartsTheSchedule : Prop :=
  ∀ (s : State) (i : Instr) (dir : Direction), (i, dir) ∈ [(Instr.blockE, Direction.encrypt), (.blockD, .decrypt)] →
    s.params.wf = true → s.busy = false → s.keyLen = 8#8 →
    exec i s = .next { s with
      busy := true, done := false, err := false, errCode := .none, outLen := 0#32, curOp := .block,
      curDir := dir, nblk := 1#32, padv := 0#8, lenL := s.msgLen, ksValid := false, blkIdx := 0#32,
      c := (keyHalves s.key).1, d := (keyHalves s.key).2, round := 0#5, phase := .ks }

/-- R164, R190, R192, R193, R203: when CRYPT.E is issued, and the block count and pad value it latches, in both padding
modes. -/
def Obligations.CryptEncryptIssueStartsTheSchedule : Prop :=
  ∀ (s : State) (n : Nat) (pv : Byte), s.busy = false → s.keyLen = 8#8 → 8 * n ≤ s.params.msgBytes →
    ((s.padcfg.mode = .fill ∧ (s.padcfg.present = true → s.padcfg.len = 1#8) ∧
        (s.msgLen.toNat % 8 = 0 ∨ s.padcfg.present = true) ∧ n = (s.msgLen.toNat + 7) / 8 ∧ pv = s.padcfg.byte) ∨
      (s.padcfg.mode = .pkcs7 ∧ n = s.msgLen.toNat / 8 + 1 ∧ pv = BitVec.ofNat 8 (8 - s.msgLen.toNat % 8))) →
    exec .cryptE s = .next { s with
      busy := true, done := false, err := false, errCode := .none, outLen := 0#32, curOp := .crypt,
      curDir := .encrypt, nblk := BitVec.ofNat 32 n, padv := pv, lenL := s.msgLen, ksValid := false, blkIdx := 0#32,
      c := (keyHalves s.key).1, d := (keyHalves s.key).2, round := 0#5, phase := .ks }

/-- R164, R173, R190, R192, R193, R203: when CRYPT.D is issued, and what it latches. That its `PAD_LEN` check is made in
mode 0 only is R192's, against R172's words (log 21). -/
def Obligations.CryptDecryptIssueStartsTheSchedule : Prop :=
  ∀ s : State, s.busy = false → s.keyLen = 8#8 →
    (s.padcfg.mode = .fill → s.padcfg.present = true → s.padcfg.len = 1#8) →
    s.msgLen.toNat % 8 = 0 → s.msgLen.toNat ≤ s.params.msgBytes →
    exec .cryptD s = .next { s with
      busy := true, done := false, err := false, errCode := .none, outLen := 0#32, curOp := .crypt,
      curDir := .decrypt, nblk := BitVec.ofNat 32 (s.msgLen.toNat / 8), padv := 0#8, lenL := s.msgLen,
      ksValid := false, blkIdx := 0#32,
      c := (keyHalves s.key).1, d := (keyHalves s.key).2, round := 0#5, phase := .ks }

/-- R204, R251: CLEAR, idle or busy, sets every register and field to its reset value and leaves MBUF unchanged. The
model's own fields (logs 1, 5, 6) stay. -/
def Obligations.ClearResetsEverythingButTheBuffer : Prop :=
  ∀ s : State, exec .clear s = .next { s with
    busy := false, done := false, err := false, ovr := false, errCode := .none,
    padcfg := { byte := 0x20#8, len := 1#8, present := true, mode := .fill },
    key := 0#64, keyLen := 0#8, msgLen := 0#32, outLen := 0#32, blk := 0#64, blkIdx := 0#32, ksValid := false,
    sk := Vector.replicate 16 0#48, c := 0#28, d := 0#28, l := 0#32, r := 0#32, phase := .idle, round := 0#5,
    curOp := .none, curDir := .encrypt, nblk := 0#32, padv := 0#8, lenL := 0#32 }

/-- R257: while busy every command but CLEAR is an ignored write. -/
def Obligations.CommandsWhileBusyAreIgnored : Prop :=
  ∀ (i : Instr) (s : State), s.busy = true → i ≠ .clear → exec i s = .next { s with ovr := true }

/-- R192, R221, R222: the five commands that take a key fail with code 1 whenever its length is not 8. -/
def Obligations.WrongKeyLengthFails : Prop :=
  ∀ (i : Instr) (s : State), i ∈ [Instr.keygen, .blockE, .blockD, .cryptE, .cryptD] → s.busy = false →
    s.keyLen ≠ 8#8 →
    exec i s = .next { s with err := true, errCode := .invalidKeyLength, done := true, outLen := 0#32 }

/-- R192, R225: the errors of CRYPT.E with an 8-byte key, in their order; with none of them the engine starts. -/
def Obligations.CryptEncryptFailsInOrder : Prop :=
  ∀ s : State, s.busy = false → s.keyLen = 8#8 →
    let fails := fun e : ErrCode => (Host.Outcome.next
      { s with err := true, errCode := e, done := true, outLen := 0#32 } : Host.Outcome State Fault Refusal)
    let n := if s.padcfg.mode = .fill then (s.msgLen.toNat + 7) / 8 else s.msgLen.toNat / 8 + 1
    if s.padcfg.mode = .fill ∧ s.padcfg.present = true ∧ s.padcfg.len ≠ 1#8 then
      exec .cryptE s = fails .invalidPadding
    else if s.padcfg.mode = .fill ∧ s.padcfg.present = false ∧ s.msgLen.toNat % 8 ≠ 0 then
      exec .cryptE s = fails .invalidPadding
    else if s.params.msgBytes < 8 * n then exec .cryptE s = fails .lengthError
    else ∃ t, exec .cryptE s = .next t ∧ t.busy = true ∧ t.err = false

/-- R173, R192, R225: the errors of CRYPT.D with an 8-byte key, in their order; with none of them the engine starts. The
`PAD_LEN` check is made in mode 0 only (log 21). -/
def Obligations.CryptDecryptFailsInOrder : Prop :=
  ∀ s : State, s.busy = false → s.keyLen = 8#8 →
    let fails := fun e : ErrCode => (Host.Outcome.next
      { s with err := true, errCode := e, done := true, outLen := 0#32 } : Host.Outcome State Fault Refusal)
    if s.padcfg.mode = .fill ∧ s.padcfg.present = true ∧ s.padcfg.len ≠ 1#8 then
      exec .cryptD s = fails .invalidPadding
    else if s.msgLen.toNat % 8 ≠ 0 then exec .cryptD s = fails .malformedCiphertext
    else if s.params.msgBytes < s.msgLen.toNat then exec .cryptD s = fails .lengthError
    else ∃ t, exec .cryptD s = .next t ∧ t.busy = true ∧ t.err = false

/-- R169: padding always ends on a block boundary, so the alignment check never applies. -/
def Obligations.AlignmentErrorIsUnreachable : Prop :=
  (∀ (m p : List Byte) (pad : PadCfg), padMessage m .encrypt pad = .ok p → p.length % 8 = 0) ∧
  (∀ (cap : Nat) (cmd : Work) (keyLen : Byte) (msgLen : Nat) (pad : PadCfg),
    check cap cmd keyLen msgLen pad ≠ .error .alignmentError)

/-- R222, R227: a write to `CMD` that ends in an error changes `ERR`, `ERRCODE`, `DONE` and `OUT_LEN` and nothing
else: `KS_VALID` too keeps its value, where vector V-D6 shows it cleared (log 16). -/
def Obligations.ErrorsChangeFourFieldsOnly : Prop :=
  ∀ (w : Word) (s t : State), s.busy = false → commandWrite w s = .next t → t.err = true →
    t = { s with err := true, errCode := t.errCode, done := true, outLen := 0#32 } ∧ t.errCode ≠ .none

/-- The frame of the issue of every command: no byte of MBUF, no parameter and nothing of the host changes; but for
CLEAR, no operand register, no subkey and no round half changes, and the overrun flag changes only while busy. -/
def Obligations.CommandIssueFrame : Prop :=
  ∀ (i : Instr) (s t : State), exec i s = .next t →
    (∀ a, t.mbuf.read a = s.mbuf.read a) ∧ t.params = s.params ∧ t.host = s.host ∧ t.turns = s.turns ∧
    t.readLog = s.readLog ∧
    (i ≠ .clear → t.key = s.key ∧ t.keyLen = s.keyLen ∧ t.msgLen = s.msgLen ∧ t.padcfg = s.padcfg ∧
      t.blk = s.blk ∧ t.sk = s.sk ∧ t.l = s.l ∧ t.r = s.r ∧ (s.busy = false → t.ovr = s.ovr)) ∧
    (i = .nop → t.outLen = s.outLen ∧ t.ksValid = s.ksValid ∧ t.c = s.c ∧ t.d = s.d ∧ t.blkIdx = s.blkIdx ∧
      t.phase = s.phase ∧ t.round = s.round ∧ t.curOp = s.curOp ∧ t.curDir = s.curDir ∧ t.nblk = s.nblk ∧
      t.padv = s.padv ∧ t.lenL = s.lenL)

/-! ## The engine's steps -/

/-- R107: one KS step. `SHIFTS` is written out (R104). -/
def Obligations.KeyScheduleStep : Prop :=
  ∀ s : State, s.phase = .ks → s.round.toNat < 16 →
    let i := s.round.toNat + 1
    let k := [1, 1, 2, 2, 2, 2, 2, 2, 1, 2, 2, 2, 2, 2, 2, 1].getD (i - 1) 0
    let c := s.c.rotateLeft k
    let d := s.d.rotateLeft k
    let t := s.engineStep
    t.c = c ∧ t.d = d ∧ subkeyEntry t.sk.toList i = permute 48 Tables.pc2 (c ++ d) ∧
    (∀ j, 1 ≤ j → j ≠ i → subkeyEntry t.sk.toList j = subkeyEntry s.sk.toList j) ∧
    (i < 16 → t.round.toNat = i ∧ t.phase = .ks ∧ t.busy = s.busy ∧ t.ksValid = s.ksValid ∧ t.done = s.done ∧
      t.outLen = s.outLen) ∧
    (i = 16 → t.round = 0#5 ∧ t.ksValid = true ∧
      ((s.curOp = .keygen ∨ s.nblk = 0#32) → t.phase = .idle ∧ t.busy = false ∧ t.done = true) ∧
      (¬(s.curOp = .keygen ∨ s.nblk = 0#32) → t.phase = .load ∧ t.busy = s.busy ∧ t.done = s.done))

/-- R143, R166: one LOAD step. -/
def Obligations.LoadStepTakesThePaddedBlock : Prop :=
  ∀ s : State, s.phase = .load →
    let x : Block := if s.curOp = .block then s.blk else
      packBytes 64 ((List.range 8).map fun k =>
        if 8 * s.blkIdx.toNat + k < s.lenL.toNat then s.mbuf.read (8 * s.blkIdx.toNat + k) else s.padv)
    let y := permute 64 Tables.initialPerm x
    s.engineStep = { s with l := y.extractLsb' 32 32, r := y.extractLsb' 0 32, round := 0#5, phase := .rnd }

/-- R126, R144: one RND step, with the subkey its direction selects. -/
def Obligations.RoundStepAppliesOneFeistelRound : Prop :=
  ∀ s : State, s.phase = .rnd → s.round.toNat < 16 →
    let i := s.round.toNat + 1
    let k := if s.curDir = .encrypt then subkeyEntry s.sk.toList i else subkeyEntry s.sk.toList (17 - i)
    s.engineStep = { s with
      l := s.r, r := s.l ^^^ permute 32 Tables.roundPerm (sboxLayer (permute 48 Tables.expansion s.r ^^^ k)),
      round := s.round + 1#5, phase := if i = 16 then .store else .rnd }

/-- R145, R146, R197: one STORE step: where the block goes, and the end of a command. The stored bytes are those of
`MemWrite(8 * BLK_IDX, 8, Z)`; every other byte of MBUF reads as before. That `ROUND` stays
after a STORE that is not the last is R146's pseudocode, against R44's words (log 8). -/
def Obligations.StoreStepWritesTheBlock : Prop :=
  ∀ s : State, s.phase = .store → s.mbuf.wf = true →
    let z := permute 64 Tables.finalPerm (s.r ++ s.l)
    let t := s.engineStep
    t.blkIdx = s.blkIdx + 1#32 ∧
    (s.curOp = .block → t.blk = z ∧ ∀ a, t.mbuf.read a = s.mbuf.read a) ∧
    (s.curOp ≠ .block → t.blk = s.blk ∧
      (∀ k, k < 8 → t.mbuf.read (8 * s.blkIdx.toNat + k) = z.extractLsb' (56 - 8 * k) 8) ∧
      (∀ a, a < 8 * s.blkIdx.toNat ∨ 8 * s.blkIdx.toNat + 8 ≤ a → t.mbuf.read a = s.mbuf.read a)) ∧
    (t.blkIdx = s.nblk → t.busy = false ∧ t.done = true ∧ t.phase = .idle ∧ t.round = 0#5 ∧
      t.outLen = (if s.curOp = .crypt then BitVec.ofNat 32 (8 * s.nblk.toNat)
        else if s.curOp = .block then 8#32 else 0#32)) ∧
    (t.blkIdx ≠ s.nblk → t.busy = s.busy ∧ t.done = s.done ∧ t.phase = .load ∧ t.round = s.round ∧
      t.outLen = s.outLen)

/-- The frame of every engine step: operands, latches, error fields, the overrun flag and the host are never written;
the schedule only by KS steps; the halves only by LOAD and RND; `BLK`, MBUF and `BLK_IDX` only by STORE. -/
def Obligations.EngineStepFrame : Prop :=
  ∀ s : State, let t := s.engineStep
    t.params = s.params ∧ t.key = s.key ∧ t.keyLen = s.keyLen ∧ t.msgLen = s.msgLen ∧ t.padcfg = s.padcfg ∧
    t.err = s.err ∧ t.errCode = s.errCode ∧ t.ovr = s.ovr ∧ t.curOp = s.curOp ∧ t.curDir = s.curDir ∧
    t.nblk = s.nblk ∧ t.padv = s.padv ∧ t.lenL = s.lenL ∧ t.host = s.host ∧ t.turns = s.turns ∧
    t.readLog = s.readLog ∧
    (s.phase ≠ .ks → t.c = s.c ∧ t.d = s.d ∧ t.sk = s.sk ∧ t.ksValid = s.ksValid) ∧
    (s.phase ≠ .load → s.phase ≠ .rnd → t.l = s.l ∧ t.r = s.r) ∧
    (s.phase ≠ .store → t.blk = s.blk ∧ t.mbuf = s.mbuf ∧ t.blkIdx = s.blkIdx)

/-! ## The functions the engine computes -/

/-- R142: FP undoes IP, and IP undoes FP. -/
def Obligations.FinalPermutationInvertsInitial : Prop :=
  ∀ x : Block,
    permute 64 Tables.finalPerm (permute 64 Tables.initialPerm x : Block) = x ∧
    permute 64 Tables.initialPerm (permute 64 Tables.finalPerm x : Block) = x

/-- R122: every row of every S-box is a permutation of 0..15. -/
def Obligations.SboxRowsArePermutations : Prop :=
  ∀ j < 8, ∀ row < 4, ((List.range 16).map fun col => sboxEntry j row col).Perm (List.range 16)

/-- R111: after the 16th KS step `C` and `D` hold C0 and D0 again, and every entry of the subkey file is the subkey of
its round. -/
def Obligations.ScheduleReturnsToItsStart : Prop :=
  ∀ s : State, s.phase = .ks → s.round = 0#5 →
    let t := Nat.iterate State.engineStep 16 s
    t.c = s.c ∧ t.d = s.d ∧ t.ksValid = true ∧ t.sk.toList = scheduleOf (s.c, s.d)

/-- R102, R108: keys that differ only in the parity bits (the least significant bit of each byte) have one schedule. -/
def Obligations.ParityBitsDoNotMatter : Prop :=
  ∀ k k' : Block, k &&& 0xFEFEFEFEFEFEFEFE#64 = k' &&& 0xFEFEFEFEFEFEFEFE#64 → keySchedule k = keySchedule k'

/-- R147: decryption undoes encryption and encryption undoes decryption, under every key; and decryption is encryption
with the subkeys reversed. -/
def Obligations.DesIsSelfInverse : Prop :=
  (∀ x k : Block, desWithKey (desWithKey x k .encrypt) k .decrypt = x ∧
    desWithKey (desWithKey x k .decrypt) k .encrypt = x) ∧
  (∀ (x : Block) (sks : List Subkey), sks.length = 16 → des x sks .decrypt = des x sks.reverse .encrypt)

/-- The complement property of the block transform (95_test_vectors.md V-B4 is one case): complementing key and block
complements the result. -/
def Obligations.ComplementProperty : Prop :=
  ∀ (x k : Block) (dir : Direction), desWithKey (~~~x) (~~~k) dir = ~~~(desWithKey x k dir)

/-- R167, R171: no information passes between blocks: what the codec makes of a message is what it makes of its parts,
cut at a block boundary, in their order. -/
def Obligations.BlocksAreIndependent : Prop :=
  ∀ (p q : List Byte) (dir : Direction) (k : Block), p.length % 8 = 0 → q.length % 8 = 0 →
    cryptBlocks (p ++ q) dir k = cryptBlocks p dir k ++ cryptBlocks q dir k ∧
    (cryptBlocks p dir k).length = p.length ∧
    ∀ b, b < p.length / 8 →
      ((cryptBlocks p dir k).drop (8 * b)).take 8 =
        bytesOf 8 (desWithKey (packBytes 64 ((p.drop (8 * b)).take 8)) k dir)

/-- R172, R174: decrypting what an encryption made returns the padded message, padding included, whatever pad setting
the decryption has. -/
def Obligations.CodecRoundTrip : Prop :=
  ∀ (m c : List Byte) (k : Block) (pad pad' : PadCfg), crypt m .encrypt k pad = .ok c →
    ∃ p, padMessage m .encrypt pad = .ok p ∧ crypt c .decrypt k pad' = .ok p

/-- R205 to R208: the round-trip laws of double and triple composition, with the third key given or omitted, and the pad
setting given or omitted (R205: then it is `PAD 0x20`). -/
def Obligations.CompositionRoundTrip : Prop :=
  ∀ (m p : List Byte) (k1 k2 : Block) (k3 : Option Block) (pad : Option PadCfg),
    padMessage m .encrypt (pad.getD { byte := 0x20#8, len := 1#8, present := true, mode := .fill }) = .ok p →
    (∃ c, doubleEncrypt m k1 k2 pad = .ok c ∧ doubleDecrypt c k1 k2 = .ok p) ∧
    (∃ c, tripleEncrypt m k1 k2 k3 pad = .ok c ∧ tripleDecrypt c k1 k2 k3 = .ok p)

/-! ## Whole commands -/

/-- R100, R201, R265: KEYGEN, from its issue to Finish in 16 steps, leaves `KeySchedule(KEY)` in the subkey file and
changes nothing but what is named. -/
def Obligations.KeygenComputesTheSchedule : Prop :=
  ∀ s : State, s.busy = false → s.keyLen = 8#8 → s.host = [] →
    ∃ t u : State, exec .keygen s = .next t ∧ Host.Core.run Sys2Proof.core 16 t = .next u ∧
      u.sk.toList = keySchedule s.key ∧
      u = { s with
        busy := false, done := true, err := false, errCode := .none, outLen := 0#32, curOp := .keygen,
        curDir := .encrypt, nblk := 0#32, padv := 0#8, lenL := s.msgLen, ksValid := true, blkIdx := 0#32,
        c := (keyHalves s.key).1, d := (keyHalves s.key).2, sk := u.sk, round := 0#5, phase := .idle }

/-- R140, R202, R265: BLOCK.E and BLOCK.D, from issue to Finish in 34 steps, leave `DES(BLK, KeySchedule(KEY), dir)` in
`BLK` and change nothing but what is named. -/
def Obligations.BlockComputesDes : Prop :=
  ∀ (s : State) (i : Instr) (dir : Direction), (i, dir) ∈ [(Instr.blockE, Direction.encrypt), (.blockD, .decrypt)] →
    s.params.wf = true → s.busy = false → s.keyLen = 8#8 → s.host = [] →
    ∃ t u : State, exec i s = .next t ∧ Host.Core.run Sys2Proof.core 34 t = .next u ∧
      u.sk.toList = keySchedule s.key ∧
      u = { s with
        busy := false, done := true, err := false, errCode := .none, outLen := 8#32, curOp := .block,
        curDir := dir, nblk := 1#32, padv := 0#8, lenL := s.msgLen, ksValid := true, blkIdx := 1#32,
        c := (keyHalves s.key).1, d := (keyHalves s.key).2, sk := u.sk,
        blk := desWithKey s.blk s.key dir,
        l := (roundsAfter (keySchedule s.key) dir 16 (blockHalves s.blk)).1,
        r := (roundsAfter (keySchedule s.key) dir 16 (blockHalves s.blk)).2, round := 0#5, phase := .idle }

/-- R160, R166, R170, R203, R265: CRYPT.E and CRYPT.D, once issued for `n` blocks, finish in `16 + 18 * n` steps with
`Crypt(MBUF[0 .. MSG_LEN-1], dir, KEY, PADCFG)` in `MBUF[0 .. 8n-1]`, every byte from `8n` on unchanged, and the operand
registers unchanged. -/
def Obligations.CryptComputesTheCodec : Prop :=
  ∀ (s : State) (i : Instr) (dir : Direction) (n : Nat) (pv : Byte),
    (i, dir) ∈ [(Instr.cryptE, Direction.encrypt), (.cryptD, .decrypt)] →
    s.params.wf = true → s.mbuf.wf = true → s.busy = false → s.host = [] →
    s.checkIssue (.crypt dir) = .ok (n, pv) →
    ∃ (t u : State) (out : List Byte), exec i s = .next t ∧
      Host.Core.run Sys2Proof.core (16 + 18 * n) t = .next u ∧
      crypt (s.mbuf.readBytes 0 s.msgLen.toNat) dir s.key s.padcfg = .ok out ∧ out.length = 8 * n ∧
      u.mbuf.readBytes 0 (8 * n) = out ∧ (∀ a, 8 * n ≤ a → u.mbuf.read a = s.mbuf.read a) ∧
      u.outLen.toNat = 8 * n ∧ u.blkIdx.toNat = n ∧ u.busy = false ∧ u.done = true ∧ u.err = false ∧
      u.errCode = .none ∧ u.phase = .idle ∧ u.round = 0#5 ∧ u.ksValid = true ∧ u.sk.toList = keySchedule s.key ∧
      u.curDir = dir ∧ u.ovr = s.ovr ∧ u.blk = s.blk ∧ u.key = s.key ∧ u.keyLen = s.keyLen ∧
      u.msgLen = s.msgLen ∧ u.padcfg = s.padcfg ∧ u.params = s.params

/-! ## The host's pseudo-instructions -/

/-- R88: LDKEY, PAD and NEXT, run on an idle engine, write their registers and nothing else; the check after a stage
(spec/44_commands.md section 3) reads `STATUS` and, on an error only, leaves out the rest of its procedure (log 12). Bytes a short key lacks are
0, bytes beyond 8 are dropped, and the length saturates (R88 as log 14 reads it). -/
def Obligations.LdkeyPadAndNextWriteTheirRegisters : Prop :=
  (∀ (s : State) (k : List Byte), s.busy = false →
    Host.Core.run Sys2Proof.core 3 (s.withPseudo (.ldkey k)) = .next { s with
      key := packBytes 64 ((k ++ List.replicate 8 0#8).take 8), keyLen := BitVec.ofNat 8 (min k.length 255) }) ∧
  (∀ s : State, s.busy = false →
    (∀ b : Byte, Host.Core.run Sys2Proof.core 1 (s.withPseudo (.pad (.fill b))) =
      .next { s with padcfg := { byte := b, len := 1#8, present := true, mode := .fill } }) ∧
    Host.Core.run Sys2Proof.core 1 (s.withPseudo (.pad .absent)) =
      .next { s with padcfg := { byte := 0#8, len := 0#8, present := false, mode := .fill } } ∧
    (∀ len : Byte, Host.Core.run Sys2Proof.core 1 (s.withPseudo (.pad (.bad len))) =
      .next { s with padcfg := { byte := 0#8, len := len, present := true, mode := .fill } }) ∧
    Host.Core.run Sys2Proof.core 1 (s.withPseudo (.pad .pkcs7)) =
      .next { s with padcfg := { byte := 0#8, len := 0#8, present := false, mode := .pkcs7 } }) ∧
  (∀ s : State, s.busy = false →
    Host.Core.run Sys2Proof.core 2 (s.withPseudo .next) =
      .next { s with msgLen := s.outLen, readLog := s.outLen :: s.readLog }) ∧
  (∀ (s : State) (n : Nat), s.busy = false →
    Host.Core.run Sys2Proof.core 1 { s with host := .stopIfError n :: s.host } =
      .next { s with host := if s.err then s.host.drop n else s.host, readLog := s.statusWord :: s.readLog })

/-- R88: LDMSG, run on an idle engine as one `WR8` for each byte (log 20: R88 allows `WR32` writes too), puts the message at the start of MBUF and its length in `MSG_LEN`, and changes
nothing else. -/
def Obligations.LdmsgFillsTheBuffer : Prop :=
  ∀ (s : State) (m : List Byte), s.params.wf = true → s.mbuf.wf = true → s.busy = false →
    Pseudo.wf s.params (.ldmsg m) = true →
    ∃ u : State, Host.Core.run Sys2Proof.core (m.length + 1) (s.withPseudo (.ldmsg m)) = .next u ∧
      u = { s with mbuf := u.mbuf, msgLen := BitVec.ofNat 32 m.length } ∧ u.mbuf.wf = true ∧
      u.mbuf.readBytes 0 m.length = m ∧ ∀ a, m.length ≤ a → u.mbuf.read a = s.mbuf.read a

/-- R88, R192, R203, R262: `CRYPTX m, dir, k, p` (so ENCRYPT and DECRYPT), run on an idle engine, ends under every turn
order: with the error of the issue check, or with `Crypt(m, dir, k, p)` at the start of MBUF. Turns are the model's (log 6). -/
def Obligations.CryptxRunsEndToEnd : Prop :=
  ∀ (s : State) (m k : List Byte) (dir : Direction) (p : PadArg),
    Inv s → s.busy = false → s.host = [] → Pseudo.wf s.params (.cryptx m dir k p) = true →
    let pad := PadCfg.ofWord (padWord p)
    let checked := check s.params.msgBytes (.crypt dir) (BitVec.ofNat 8 (min k.length 255)) m.length pad
    ∃ (n : Nat) (u : State), Host.Core.run Sys2Proof.core n (s.withPseudo (.cryptx m dir k p)) = .next u ∧
      u.host = [] ∧ u.busy = false ∧ u.done = true ∧
      (∀ e, checked = .error e → u.err = true ∧ u.errCode = e ∧ u.outLen = 0#32) ∧
      (∀ r, checked = .ok r → u.err = false ∧ u.errCode = .none ∧
        ∃ out, crypt m dir (packBytes 64 k) pad = .ok out ∧ u.outLen.toNat = out.length ∧
          u.mbuf.readBytes 0 out.length = out)

/-! ## Reset and invariants -/

/-- R250, R252: power-on reset, for every parameter and every contents of MBUF; the engine is idle and takes no step.
No value of the model's choice (logs 1, 4) enters; the last clause is log 7. -/
def Obligations.ResetLeavesEveryRegisterAtItsValue : Prop :=
  ∀ (p : Params) (m : Memory), let s := State.resetWith p m
    s.statusWord = 0x00000000#32 ∧ s.padcfg.toWord = 0x00010120#32 ∧ s.key = 0#64 ∧ s.keyLen = 0#8 ∧
    s.msgLen = 0#32 ∧ s.outLen = 0#32 ∧ s.blk = 0#64 ∧ s.blkIdx = 0#32 ∧
    (∀ i : Fin 16, s.sk[i.val] = 0#48) ∧ s.c = 0#28 ∧ s.d = 0#28 ∧ s.l = 0#32 ∧ s.r = 0#32 ∧ s.phase = .idle ∧
    s.round = 0#5 ∧ s.curOp = .none ∧ s.curDir = .encrypt ∧ s.nblk = 0#32 ∧ s.padv = 0#8 ∧ s.lenL = 0#32 ∧
    s.mbuf = m ∧ step s = .next s

/-- Every power-on state of a legal capacity (log 2) meets the invariants. -/
def Obligations.ResetMeetsTheInvariants : Prop :=
  ∀ (p : Params) (m : Memory), p.wf = true → m.wf = true → (∀ x ∈ m, x.1 < p.msgBytes) →
    Inv (State.resetWith p m) ∧ ScheduleInv (State.resetWith p m)

/-- R24, R43, R44, R33, R68: every step keeps the invariant, from every state that meets it. That `ROUND` may be
16 in LOAD is log 8; the bound on the capacity is log 2. -/
def Obligations.EveryStepKeepsTheInvariant : Prop :=
  ∀ s t : State, Inv s → step s = .next t → Inv t

/-- R110, R41: every step keeps the meaning of `KS_VALID`: the subkey file holds the complete schedule. -/
def Obligations.EveryStepKeepsTheScheduleValid : Prop :=
  ∀ s t : State, Inv s → ScheduleInv s → step s = .next t → ScheduleInv t

/-- R68: every MBUF access of the engine lies in MBUF: no engine step writes at or beyond the capacity, and what a LOAD
step reads does not depend on anything there. -/
def Obligations.EngineStaysInsideTheBuffer : Prop :=
  ∀ s : State, Inv s →
    (∀ a, s.params.msgBytes ≤ a → s.engineStep.mbuf.read a = s.mbuf.read a) ∧
    (s.phase = .load → ∀ m : Memory, (∀ a, a < s.params.msgBytes → m.read a = s.mbuf.read a) →
      State.loadOperand { s with mbuf := m } = s.loadOperand)

/-- R61: MBUF changes only by a STORE step of a command other than BLOCK, or by a host write to it while idle. -/
def Obligations.BufferChangesOnlyByStoreOrHostWrite : Prop :=
  ∀ (s t : State) (a : Nat), step s = .next t → t.mbuf.read a ≠ s.mbuf.read a →
    (s.busy = true ∧ s.phase = .store ∧ s.curOp ≠ .block) ∨
    (s.busy = false ∧ ∃ x rest, s.host = .access x :: rest ∧ x.rw = .write ∧ 0x1000 ≤ x.off.toNat)

/-! ## Steps, progress and interleaving -/

/-- R148, R265: each engine step of a running command uses up one of the steps the rules give it, and the command ends
with the last of them. -/
def Obligations.StepsLeftCountDown : Prop :=
  ∀ s : State, Inv s → s.busy = true →
    stepsLeft s.engineStep + 1 = stepsLeft s ∧ (s.engineStep.busy = false ↔ stepsLeft s = 1)

/-- R265: the step count of each command at its issue. -/
def Obligations.StepCountsAtIssue : Prop :=
  ∀ (s t : State) (i : Instr), Inv s → s.busy = false → exec i s = .next t →
    (t.busy = false → stepsLeft t = 0) ∧
    (t.busy = true →
      (i = .keygen → stepsLeft t = 16) ∧ (i = .blockE ∨ i = .blockD → stepsLeft t = 34) ∧
      (i = .cryptE ∨ i = .cryptD → stepsLeft t = 16 + 18 * t.nblk.toNat)) ∧
    (i = .nop ∨ i = .clear → t.busy = false)

/-- R262: polling ends, under every turn order, within the turns it names and the steps the command has left. That the
engine has the turn once the named turns are used up is the model's form of R262's fairness (log 6). -/
def Obligations.PollingEnds : Prop :=
  ∀ s : State, Inv s → s.busy = true → s.host = [.poll] →
    ∃ (n : Nat) (u : State), n ≤ s.turns.length + stepsLeft s + 1 ∧ Host.Core.run Sys2Proof.core n s = .next u ∧
      u.host = [] ∧ u.busy = false ∧ u.done = true

/-- R191, R257, R258: no host operation but CLEAR changes anything a running command reads. -/
def Obligations.HostCannotDisturbARunningCommand : Prop :=
  ∀ s t : State, s.busy = true → noClear s.host = true → hostMove s = .next t →
    commandView t = commandView s ∧ noClear t.host = true

/-- R191: while a command runs and the host writes no CLEAR, whatever the interleaving (`turns`, log 6), the state a
command can see is that of some number of engine steps and of nothing else. -/
def Obligations.ResultsDoNotDependOnInterleaving : Prop :=
  ∀ (n : Nat) (s t : State), noClear s.host = true →
    (∀ (m : Nat) (u : State), m < n → Host.Core.run Sys2Proof.core m s = .next u → u.busy = true) →
    Host.Core.run Sys2Proof.core n s = .next t →
    ∃ k, k ≤ n ∧ commandView t = Nat.iterate State.engineStep k (commandView s)
end

