-- ==== Sys2Proof/Laws/Bits.lean ====
section
/-! SUPPORT. What the bit primitives do: a permutation bit by bit, the rotation as a rotation, bytes and values. -/

namespace Sys2Proof.Machine

/-- Horner's rule over bits: an accumulator shifts up by the number of bits read. -/
theorem foldl_bits (f : Nat → Bool) (t : List Nat) (a : Nat) :
    t.foldl (fun w i => 2 * w + (f i).toNat) a =
      a * 2 ^ t.length + t.foldl (fun w i => 2 * w + (f i).toNat) 0 := by
  induction t generalizing a with
  | nil => simp
  | cons x t ih =>
    simp only [List.foldl_cons, List.length_cons]
    rw [ih, ih (2 * 0 + (f x).toNat)]
    ring

theorem foldl_bits_lt (f : Nat → Bool) (t : List Nat) :
    t.foldl (fun w i => 2 * w + (f i).toNat) 0 < 2 ^ t.length := by
  induction t with
  | nil => simp
  | cons x t ih =>
    simp only [List.foldl_cons, List.length_cons]
    rw [foldl_bits, pow_succ]
    have : (f x).toNat ≤ 1 := Bool.toNat_le _
    nlinarith

/-- Bit `k` from the top of the value read is bit `k` of the list. -/
theorem testBit_foldl_bits (f : Nat → Bool) (t : List Nat) (k : Nat) (hk : k < t.length) :
    (t.foldl (fun w i => 2 * w + (f i).toNat) 0).testBit (t.length - 1 - k) = f t[k] := by
  induction t generalizing k with
  | nil => simp at hk
  | cons x t ih =>
    simp only [List.foldl_cons, List.length_cons]
    rw [foldl_bits, Nat.mul_comm, Nat.testBit_two_pow_mul_add _ (foldl_bits_lt f t)]
    cases k with
    | zero => simp; cases f x <;> simp
    | succ k =>
      have hk' : k < t.length := by simpa using hk
      have : t.length + 1 - 1 - (k + 1) < t.length := by omega
      rw [if_pos this]
      have h2 : t.length + 1 - 1 - (k + 1) = t.length - 1 - k := by omega
      rw [h2, ih k hk']
      simp

/-- R10: element `i` of the result is element `T[i]` of the input. -/
theorem permute_getMsbD {n m : Nat} (t : List Nat) (v : BitVec n) (h : t.length = m) (i : Nat) (hi : i < t.length) :
    (permute m t v).getMsbD i = v.getMsbD t[i] := by
  subst h
  unfold permute
  rw [BitVec.getMsbD_eq_getLsbD, BitVec.getLsbD_ofNat]
  have : t.length - 1 - i < t.length := by omega
  simp only [hi, decide_true, this, Bool.true_and]
  exact testBit_foldl_bits (fun i => desBit v i) t i hi

/-- Two values of one width with the same elements are equal. -/
theorem eq_of_desBits {n : Nat} {v w : BitVec n} (h : ∀ i < n, v.getMsbD i = w.getMsbD i) : v = w :=
  BitVec.eq_of_getMsbD_eq h

/-- R11's formula is the circular left rotation. -/
theorem rotl28_eq_rotateLeft (v : KeyHalf) (k : Nat) (hk : k < 28) : rotl28 v k = v.rotateLeft k := by
  apply BitVec.eq_of_toNat_eq
  have hv := v.isLt
  rw [BitVec.toNat_rotateLeft, Nat.mod_eq_of_lt hk]
  simp only [rotl28, BitVec.toNat_ofNat]
  have hq : v.toNat / 2 ^ (28 - k) < 2 ^ k := by
    rw [Nat.div_lt_iff_lt_mul (by positivity), ← pow_add]
    have : k + (28 - k) = 28 := by omega
    rw [this]; exact hv
  have hs : v.toNat <<< k % 2 ^ 28 = 2 ^ k * (v.toNat % 2 ^ (28 - k)) := by
    rw [Nat.shiftLeft_eq, Nat.mul_comm]
    have : (2 : Nat) ^ 28 = 2 ^ k * 2 ^ (28 - k) := by rw [← pow_add]; congr 1; omega
    rw [this, Nat.mul_mod_mul_left]
  rw [hs, Nat.shiftRight_eq_div_pow, ← Nat.two_pow_add_eq_or_of_lt hq]
  have e := Nat.mod_add_div v.toNat (2 ^ (28 - k))
  have hx : v.toNat % 2 ^ (28 - k) < 2 ^ (28 - k) := Nat.mod_lt _ (by positivity)
  generalize v.toNat % 2 ^ (28 - k) = x at *
  generalize v.toNat / 2 ^ (28 - k) = y at *
  have h28 : (2 : Nat) ^ 28 = 2 ^ k * 2 ^ (28 - k) := by rw [← pow_add]; congr 1; omega
  have hsum : v.toNat * 2 ^ k + y = 2 ^ k * x + y + 2 ^ 28 * y := by rw [← e, h28]; ring
  rw [hsum, Nat.add_mul_mod_self_left, Nat.mod_eq_of_lt]
  calc 2 ^ k * x + y < 2 ^ k * x + 2 ^ k := by omega
    _ = 2 ^ k * (x + 1) := by ring
    _ ≤ 2 ^ k * 2 ^ (28 - k) := Nat.mul_le_mul_left _ hx
    _ = 2 ^ 28 := h28.symm

/-- Element `i` of a rotated half is element `i + k` of the half, around the ring of 28. -/
theorem rotl28_getMsbD (v : KeyHalf) (k i : Nat) (hk : k < 28) (hi : i < 28) :
    (rotl28 v k).getMsbD i = v.getMsbD ((k + i) % 28) := by
  rw [rotl28_eq_rotateLeft v k hk, BitVec.getMsbD_rotateLeft]
  simp [hi]

/-- Two rotations add up. -/
theorem rotl28_rotl28 (v : KeyHalf) (a b : Nat) (h : a + b < 28) : rotl28 (rotl28 v a) b = rotl28 v (a + b) := by
  apply eq_of_desBits
  intro i hi
  rw [rotl28_getMsbD _ b i (by omega) hi, rotl28_getMsbD _ a _ (by omega) (Nat.mod_lt _ (by decide)),
    rotl28_getMsbD _ (a + b) i h hi]
  congr 1; omega

/-- Rotations that add up to 28 return the half (spec/40_keyschedule.md R111). -/
theorem rotl28_full (v : KeyHalf) (a b : Nat) (ha : a < 28) (hb : b < 28) (h : a + b = 28) :
    rotl28 (rotl28 v a) b = v := by
  apply eq_of_desBits
  intro i hi
  rw [rotl28_getMsbD _ b i hb hi, rotl28_getMsbD _ a _ ha (Nat.mod_lt _ (by decide))]
  congr 1; omega

/-- The two halves of a block, joined again. -/
theorem hi32_append_lo32 (v : Block) : hi32 v ++ lo32 v = v := by
  unfold hi32 lo32
  apply BitVec.eq_of_getLsbD_eq
  intro i hi
  simp only [BitVec.getLsbD_append, BitVec.getLsbD_extractLsb']
  by_cases h : i < 32
  · simp [h]
  · have : i - 32 < 32 := by omega
    have h2 : 32 + (i - 32) = i := by omega
    simp [h, this, h2]

@[simp] theorem hi32_append (a b : Half) : hi32 (a ++ b) = a := by
  unfold hi32
  apply BitVec.eq_of_getLsbD_eq
  intro i hi
  rw [BitVec.getLsbD_extractLsb']
  refine (congrArg (decide (i < 32) && ·) (BitVec.getLsbD_append (x := a) (y := b) (i := 32 + i))).trans ?_
  simp [hi]

@[simp] theorem lo32_append (a b : Half) : lo32 (a ++ b) = b := by
  unfold lo32
  apply BitVec.eq_of_getLsbD_eq
  intro i hi
  rw [BitVec.getLsbD_extractLsb']
  refine (congrArg (decide (i < 32) && ·) (BitVec.getLsbD_append (x := a) (y := b) (i := 0 + i))).trans ?_
  simp [hi]

/-- The two halves of the key-schedule register, joined again. -/
theorem hi28_append_lo28 (v : BitVec 56) : hi28 v ++ lo28 v = v := by
  unfold hi28 lo28
  apply BitVec.eq_of_getLsbD_eq
  intro i hi
  simp only [BitVec.getLsbD_append, BitVec.getLsbD_extractLsb']
  by_cases h : i < 28
  · simp [h]
  · have : i - 28 < 28 := by omega
    have h2 : 28 + (i - 28) = i := by omega
    simp [h, this, h2]

@[simp] theorem length_bytesOf {w : Nat} (n : Nat) (v : BitVec w) : (bytesOf n v).length = n := by
  simp [bytesOf]

theorem foldl_bytes (bs : List Byte) (a : Nat) :
    bs.foldl (fun x b => x * 256 + b.toNat) a =
      a * 256 ^ bs.length + bs.foldl (fun x b => x * 256 + b.toNat) 0 := by
  induction bs generalizing a with
  | nil => simp
  | cons b bs ih =>
    simp only [List.foldl_cons, List.length_cons]
    rw [ih, ih (0 * 256 + b.toNat)]
    ring

theorem foldl_bytes_lt (bs : List Byte) :
    bs.foldl (fun x b => x * 256 + b.toNat) 0 < 256 ^ bs.length := by
  induction bs with
  | nil => simp
  | cons b bs ih =>
    simp only [List.foldl_cons, List.length_cons]
    rw [foldl_bytes, pow_succ]
    have := b.isLt
    nlinarith

/-- Byte `k` of a packed value is byte `k` of the list. -/
theorem foldl_bytes_div (bs : List Byte) (k : Nat) (hk : k < bs.length) :
    bs.foldl (fun x b => x * 256 + b.toNat) 0 / 256 ^ (bs.length - 1 - k) % 256 = (bs[k]).toNat := by
  induction bs generalizing k with
  | nil => simp at hk
  | cons b bs ih =>
    simp only [List.foldl_cons, List.length_cons]
    rw [foldl_bytes]
    cases k with
    | zero =>
      have h := foldl_bytes_lt bs
      have hb := b.isLt
      simp only [Nat.zero_mul, Nat.zero_add, Nat.add_sub_cancel, Nat.sub_zero, List.getElem_cons_zero]
      rw [Nat.add_comm, Nat.add_mul_div_right _ _ (by positivity), Nat.div_eq_of_lt h]
      omega
    | succ k =>
      have hk' : k < bs.length := by simpa using hk
      have e : bs.length + 1 - 1 - (k + 1) = bs.length - 1 - k := by omega
      rw [e, List.getElem_cons_succ, ← ih k hk', Nat.add_comm]
      have : 256 ^ bs.length = 256 ^ (bs.length - 1 - k) * (256 ^ k * 256) := by
        rw [← pow_succ, ← pow_add]; congr 1; omega
      rw [this, show (0 * 256 + b.toNat) * (256 ^ (bs.length - 1 - k) * (256 ^ k * 256)) =
        256 ^ (bs.length - 1 - k) * ((b.toNat * 256 ^ k) * 256) by ring,
        Nat.add_mul_div_left _ _ (by positivity), Nat.add_mul_mod_self_right]

/-- The bytes of a packed value are the bytes packed. -/
theorem bytesOf_packBytes (w : Nat) (bs : List Byte) (h : w = 8 * bs.length) :
    bytesOf bs.length (packBytes w bs) = bs := by
  subst h
  apply List.ext_getElem (by simp)
  intro k h1 h2
  apply BitVec.eq_of_toNat_eq
  simp only [bytesOf, List.getElem_map, List.getElem_range, BitVec.extractLsb'_toNat, packBytes, BitVec.toNat_ofNat]
  have hl : bs.foldl (fun x b => x * 256 + b.toNat) 0 < 2 ^ (8 * bs.length) := by
    have := foldl_bytes_lt bs
    rwa [show (256 : Nat) = 2 ^ 8 from rfl, ← pow_mul] at this
  rw [Nat.mod_eq_of_lt hl, Nat.shiftRight_eq_div_pow, ← foldl_bytes_div bs k h2]
  rw [show (256 : Nat) = 2 ^ 8 from rfl, ← pow_mul]
  congr 3; omega

/-- A value of 8 bytes is the packing of its bytes. -/
theorem packBytes_bytesOf (v : Block) : packBytes 64 (bytesOf 8 v) = v := by
  apply BitVec.eq_of_toNat_eq
  have hv := v.isLt
  simp only [packBytes, bytesOf, List.range_succ, List.range_zero, List.nil_append, List.map_append, List.map_cons, List.map_nil,
    List.foldl_append, List.foldl_cons, List.foldl_nil, BitVec.extractLsb'_toNat, BitVec.toNat_ofNat,
    Nat.shiftRight_eq_div_pow]
  omega

end Sys2Proof.Machine
end

