-- ==== Sys2Proof/Laws/Memory.lean ====
section
/-! SUPPORT. The laws of MBUF: a read after a write, and that every write keeps the canonical form. -/

namespace Sys2Proof.Machine

@[simp] theorem Memory.read_nil (a : Nat) : Memory.read [] a = Memory.unlistedByte := rfl

theorem Memory.read_cons (b : Nat) (x : Byte) (m : Memory) (a : Nat) :
    Memory.read ((b, x) :: m) a = if a = b then x else Memory.read m a := by
  unfold Memory.read
  rw [List.lookup_cons]
  by_cases h : a = b
  · simp [h]
  · simp [h, beq_eq_false_iff_ne.mpr h]

/-- An offset below every listed one is unlisted. -/
theorem Memory.read_of_lt (m : Memory) (a : Nat) (h : ∀ x ∈ m, a < x.1) :
    Memory.read m a = Memory.unlistedByte := by
  induction m with
  | nil => rfl
  | cons p m ih =>
    obtain ⟨b, x⟩ := p
    rw [Memory.read_cons, if_neg, ih fun x hx => h x (List.mem_cons_of_mem _ hx)]
    have := h (b, x) (List.mem_cons_self ..)
    simp only at this; omega

theorem Memory.wf_nil : Memory.wf [] = true := rfl

theorem Memory.wf_cons (b : Nat) (x : Byte) (m : Memory) :
    Memory.wf ((b, x) :: m) = true ↔ (∀ y ∈ m, b < y.1) ∧ x ≠ Memory.unlistedByte ∧ Memory.wf m = true := by
  simp only [Memory.wf, List.pairwise_cons, List.all_cons, Bool.and_eq_true, decide_eq_true_eq, bne_iff_ne]
  tauto

/-- What a write lists: the offset written, or an offset listed before. -/
theorem Memory.mem_write (m : Memory) (a : Nat) (v : Byte) (p : Host.Cell) (h : p ∈ m.write a v) :
    p = (a, v) ∨ p ∈ m := by
  induction m with
  | nil =>
    unfold Memory.write at h
    split at h <;> simp_all
  | cons q m ih =>
    obtain ⟨b, x⟩ := q
    unfold Memory.write at h
    split at h
    · split at h <;> simp_all
    · split at h
      · split at h <;> simp_all
        tauto
      · rcases List.mem_cons.mp h with h | h
        · simp [h]
        · rcases ih h with h | h <;> simp [h]

theorem Memory.read_write_same (m : Memory) (a : Nat) (v : Byte) (h : m.wf = true) : (m.write a v).read a = v := by
  induction m with
  | nil =>
    unfold Memory.write
    split
    · simp_all
    · simp [Memory.read_cons]
  | cons q m ih =>
    obtain ⟨b, x⟩ := q
    rw [Memory.wf_cons] at h
    unfold Memory.write
    split
    · split
      · rename_i hab hv
        rw [Memory.read_of_lt, hv]
        intro y hy
        rcases List.mem_cons.mp hy with rfl | hy
        · exact hab
        · exact lt_trans hab (h.1 y hy)
      · simp [Memory.read_cons]
    · split
      · split
        · rename_i hab hv
          rw [hab, Memory.read_of_lt m b h.1, hv]
        · simp [Memory.read_cons]
      · rename_i hab hne
        rw [Memory.read_cons, if_neg hne, ih h.2.2]

theorem Memory.read_write_other (m : Memory) (a a' : Nat) (v : Byte) (h : m.wf = true) (hne : a' ≠ a) :
    (m.write a v).read a' = m.read a' := by
  induction m with
  | nil =>
    unfold Memory.write
    split
    · rfl
    · simp [Memory.read_cons, hne]
  | cons q m ih =>
    obtain ⟨b, x⟩ := q
    rw [Memory.wf_cons] at h
    unfold Memory.write
    split
    · split
      · rfl
      · simp [Memory.read_cons, hne]
    · split
      · rename_i hab
        subst hab
        split
        · rw [Memory.read_cons, if_neg hne]
        · simp [Memory.read_cons, hne]
      · rw [Memory.read_cons, Memory.read_cons, ih h.2.2]

theorem Memory.read_write (m : Memory) (a a' : Nat) (v : Byte) (h : m.wf = true) :
    (m.write a v).read a' = if a' = a then v else m.read a' := by
  split
  · rename_i e; rw [e, Memory.read_write_same m a v h]
  · rename_i e; exact Memory.read_write_other m a a' v h e

/-- A write keeps the canonical form. -/
theorem Memory.wf_write (m : Memory) (a : Nat) (v : Byte) (h : m.wf = true) : (m.write a v).wf = true := by
  induction m with
  | nil =>
    unfold Memory.write
    split
    · rfl
    · rename_i hv; simp [Memory.wf_cons, hv, Memory.wf_nil]
  | cons q m ih =>
    obtain ⟨b, x⟩ := q
    have h' := (Memory.wf_cons b x m).mp h
    unfold Memory.write
    split
    · rename_i hab
      split
      · exact h
      · rename_i hv
        refine (Memory.wf_cons _ _ _).mpr ⟨?_, hv, h⟩
        intro y hy
        rcases List.mem_cons.mp hy with rfl | hy
        · exact hab
        · exact lt_trans hab (h'.1 y hy)
    · split
      · rename_i hab
        split
        · exact h'.2.2
        · rename_i hv
          exact (Memory.wf_cons _ _ _).mpr ⟨by rw [hab]; exact h'.1, hv, h'.2.2⟩
      · rename_i hlt hne
        refine (Memory.wf_cons _ _ _).mpr ⟨?_, h'.2.1, ih h'.2.2⟩
        intro y hy
        rcases Memory.mem_write m a v y hy with rfl | hy
        · simp only; omega
        · exact h'.1 y hy

theorem Memory.wf_writeBytes (m : Memory) (a : Nat) (bs : List Byte) (h : m.wf = true) :
    (m.writeBytes a bs).wf = true := by
  induction bs generalizing m a with
  | nil => exact h
  | cons b bs ih => exact ih _ _ (Memory.wf_write m a b h)

/-- What a write of several bytes lists: an offset written, or an offset listed before. -/
theorem Memory.mem_writeBytes (m : Memory) (a : Nat) (bs : List Byte) (p : Host.Cell) (h : p ∈ m.writeBytes a bs) :
    p.1 < a + bs.length ∨ p ∈ m := by
  induction bs generalizing m a with
  | nil => exact .inr h
  | cons b bs ih =>
    rcases ih _ _ h with h | h
    · left; simp only [List.length_cons]; omega
    · rcases Memory.mem_write m a b p h with rfl | h
      · left; simp
      · exact .inr h

/-- A read after a write of several bytes. -/
theorem Memory.read_writeBytes (m : Memory) (a : Nat) (bs : List Byte) (a' : Nat) (h : m.wf = true) :
    (m.writeBytes a bs).read a' = if a ≤ a' then (bs[a' - a]?).getD (m.read a') else m.read a' := by
  induction bs generalizing m a with
  | nil => simp [Memory.writeBytes]
  | cons b bs ih =>
    rw [Memory.writeBytes, ih _ _ (Memory.wf_write m a b h), Memory.read_write m a a' b h]
    rcases Nat.lt_trichotomy a' a with hlt | heq | hgt
    · rw [if_neg (show ¬a + 1 ≤ a' by omega), if_neg (show ¬a' = a by omega), if_neg (show ¬a ≤ a' by omega)]
    · subst heq; simp
    · rw [if_pos (show a + 1 ≤ a' by omega), if_neg (show ¬a' = a by omega), if_pos (show a ≤ a' by omega)]
      have : a' - a = (a' - (a + 1)) + 1 := by omega
      rw [this, List.getElem?_cons_succ]

@[simp] theorem Memory.length_readBytes (m : Memory) (a n : Nat) : (m.readBytes a n).length = n := by
  simp [Memory.readBytes]

theorem Memory.getElem_readBytes (m : Memory) (a n k : Nat) (h : k < (m.readBytes a n).length) :
    (m.readBytes a n)[k] = m.read (a + k) := by
  simp [Memory.readBytes]

/-- What a block write leaves at each offset. -/
theorem Memory.read_writeBlock (m : Memory) (a : Nat) (v : Block) (a' : Nat) (h : m.wf = true) :
    (m.writeBlock a v).read a' = if a ≤ a' ∧ a' < a + 8 then (bytesOf 8 v).getD (a' - a) 0#8 else m.read a' := by
  rw [Memory.writeBlock, Memory.read_writeBytes _ _ _ _ h]
  by_cases h1 : a ≤ a'
  · by_cases h2 : a' < a + 8
    · have : a' - a < (bytesOf 8 v).length := by simp; omega
      rw [if_pos h1, if_pos ⟨h1, h2⟩, List.getElem?_eq_getElem this]
      simp [List.getD, List.getElem?_eq_getElem this]
    · have : (bytesOf 8 v).length ≤ a' - a := by simp; omega
      rw [if_pos h1, if_neg (by omega), List.getElem?_eq_none this]
      rfl
  · rw [if_neg h1, if_neg (by omega)]

/-- The canonical form is canonical: equal reads are equal memories. -/
theorem Memory.eq_of_reads (m m' : Memory) (h : m.wf = true) (h' : m'.wf = true)
    (e : ∀ a, m.read a = m'.read a) : m = m' := by
  induction m generalizing m' with
  | nil =>
    cases m' with
    | nil => rfl
    | cons q m' =>
      obtain ⟨b, x⟩ := q
      have := e b
      rw [Memory.read_cons, if_pos rfl] at this
      exact absurd this.symm ((Memory.wf_cons _ _ _).mp h').2.1
  | cons p m ih =>
    obtain ⟨a, x⟩ := p
    obtain ⟨h1, h2, h3⟩ := (Memory.wf_cons _ _ _).mp h
    cases m' with
    | nil =>
      have := e a
      rw [Memory.read_cons, if_pos rfl] at this
      exact absurd this h2
    | cons q m' =>
      obtain ⟨b, y⟩ := q
      obtain ⟨k1, k2, k3⟩ := (Memory.wf_cons _ _ _).mp h'
      have hab : a = b := by
        rcases Nat.lt_trichotomy a b with hlt | heq | hgt
        · have := e a
          rw [Memory.read_cons, if_pos rfl, Memory.read_of_lt ((b, y) :: m') a] at this
          · exact absurd this h2
          · intro z hz
            rcases List.mem_cons.mp hz with rfl | hz
            · exact hlt
            · exact lt_trans hlt (k1 z hz)
        · exact heq
        · have := e b
          rw [Memory.read_cons b y, if_pos rfl, Memory.read_of_lt ((a, x) :: m) b] at this
          · exact absurd this.symm k2
          · intro z hz
            rcases List.mem_cons.mp hz with rfl | hz
            · exact hgt
            · exact lt_trans hgt (h1 z hz)
      subst hab
      have hx : x = y := by
        have := e a
        rwa [Memory.read_cons, if_pos rfl, Memory.read_cons, if_pos rfl] at this
      subst hx
      congr 1
      apply ih m' h3 k3
      intro c
      by_cases hc : c = a
      · subst hc
        rw [Memory.read_of_lt m c h1, Memory.read_of_lt m' c k1]
      · have := e c
        rwa [Memory.read_cons, if_neg hc, Memory.read_cons, if_neg hc] at this

end Sys2Proof.Machine
end

