-- ==== Sys2Proof/Laws/State.lean ====
section
/-! SUPPORT. One lemma per field and update of State, so that no later proof unfolds a record update. -/

namespace Sys2Proof.Machine

section
variable (s : State)

/-! `State.acknowledge`: R190: what an issue clears. -/

@[simp] theorem State.acknowledge_params : s.acknowledge.params = s.params := rfl
@[simp] theorem State.acknowledge_busy : s.acknowledge.busy = s.busy := rfl
@[simp] theorem State.acknowledge_done : s.acknowledge.done = false := rfl
@[simp] theorem State.acknowledge_err : s.acknowledge.err = false := rfl
@[simp] theorem State.acknowledge_ovr : s.acknowledge.ovr = s.ovr := rfl
@[simp] theorem State.acknowledge_errCode : s.acknowledge.errCode = .none := rfl
@[simp] theorem State.acknowledge_padcfg : s.acknowledge.padcfg = s.padcfg := rfl
@[simp] theorem State.acknowledge_key : s.acknowledge.key = s.key := rfl
@[simp] theorem State.acknowledge_keyLen : s.acknowledge.keyLen = s.keyLen := rfl
@[simp] theorem State.acknowledge_msgLen : s.acknowledge.msgLen = s.msgLen := rfl
@[simp] theorem State.acknowledge_outLen : s.acknowledge.outLen = s.outLen := rfl
@[simp] theorem State.acknowledge_blk : s.acknowledge.blk = s.blk := rfl
@[simp] theorem State.acknowledge_blkIdx : s.acknowledge.blkIdx = s.blkIdx := rfl
@[simp] theorem State.acknowledge_ksValid : s.acknowledge.ksValid = s.ksValid := rfl
@[simp] theorem State.acknowledge_sk : s.acknowledge.sk = s.sk := rfl
@[simp] theorem State.acknowledge_c : s.acknowledge.c = s.c := rfl
@[simp] theorem State.acknowledge_d : s.acknowledge.d = s.d := rfl
@[simp] theorem State.acknowledge_l : s.acknowledge.l = s.l := rfl
@[simp] theorem State.acknowledge_r : s.acknowledge.r = s.r := rfl
@[simp] theorem State.acknowledge_phase : s.acknowledge.phase = s.phase := rfl
@[simp] theorem State.acknowledge_round : s.acknowledge.round = s.round := rfl
@[simp] theorem State.acknowledge_curOp : s.acknowledge.curOp = s.curOp := rfl
@[simp] theorem State.acknowledge_curDir : s.acknowledge.curDir = s.curDir := rfl
@[simp] theorem State.acknowledge_nblk : s.acknowledge.nblk = s.nblk := rfl
@[simp] theorem State.acknowledge_padv : s.acknowledge.padv = s.padv := rfl
@[simp] theorem State.acknowledge_lenL : s.acknowledge.lenL = s.lenL := rfl
@[simp] theorem State.acknowledge_mbuf : s.acknowledge.mbuf = s.mbuf := rfl
@[simp] theorem State.acknowledge_host : s.acknowledge.host = s.host := rfl
@[simp] theorem State.acknowledge_turns : s.acknowledge.turns = s.turns := rfl
@[simp] theorem State.acknowledge_readLog : s.acknowledge.readLog = s.readLog := rfl

/-! `State.complete`: R200. -/

@[simp] theorem State.complete_params : s.complete.params = s.params := rfl
@[simp] theorem State.complete_busy : s.complete.busy = s.busy := rfl
@[simp] theorem State.complete_done : s.complete.done = true := rfl
@[simp] theorem State.complete_err : s.complete.err = s.err := rfl
@[simp] theorem State.complete_ovr : s.complete.ovr = s.ovr := rfl
@[simp] theorem State.complete_errCode : s.complete.errCode = s.errCode := rfl
@[simp] theorem State.complete_padcfg : s.complete.padcfg = s.padcfg := rfl
@[simp] theorem State.complete_key : s.complete.key = s.key := rfl
@[simp] theorem State.complete_keyLen : s.complete.keyLen = s.keyLen := rfl
@[simp] theorem State.complete_msgLen : s.complete.msgLen = s.msgLen := rfl
@[simp] theorem State.complete_outLen : s.complete.outLen = s.outLen := rfl
@[simp] theorem State.complete_blk : s.complete.blk = s.blk := rfl
@[simp] theorem State.complete_blkIdx : s.complete.blkIdx = s.blkIdx := rfl
@[simp] theorem State.complete_ksValid : s.complete.ksValid = s.ksValid := rfl
@[simp] theorem State.complete_sk : s.complete.sk = s.sk := rfl
@[simp] theorem State.complete_c : s.complete.c = s.c := rfl
@[simp] theorem State.complete_d : s.complete.d = s.d := rfl
@[simp] theorem State.complete_l : s.complete.l = s.l := rfl
@[simp] theorem State.complete_r : s.complete.r = s.r := rfl
@[simp] theorem State.complete_phase : s.complete.phase = s.phase := rfl
@[simp] theorem State.complete_round : s.complete.round = s.round := rfl
@[simp] theorem State.complete_curOp : s.complete.curOp = s.curOp := rfl
@[simp] theorem State.complete_curDir : s.complete.curDir = s.curDir := rfl
@[simp] theorem State.complete_nblk : s.complete.nblk = s.nblk := rfl
@[simp] theorem State.complete_padv : s.complete.padv = s.padv := rfl
@[simp] theorem State.complete_lenL : s.complete.lenL = s.lenL := rfl
@[simp] theorem State.complete_mbuf : s.complete.mbuf = s.mbuf := rfl
@[simp] theorem State.complete_host : s.complete.host = s.host := rfl
@[simp] theorem State.complete_turns : s.complete.turns = s.turns := rfl
@[simp] theorem State.complete_readLog : s.complete.readLog = s.readLog := rfl

/-! `State.noteOverrun`: R257. -/

@[simp] theorem State.noteOverrun_params : s.noteOverrun.params = s.params := rfl
@[simp] theorem State.noteOverrun_busy : s.noteOverrun.busy = s.busy := rfl
@[simp] theorem State.noteOverrun_done : s.noteOverrun.done = s.done := rfl
@[simp] theorem State.noteOverrun_err : s.noteOverrun.err = s.err := rfl
@[simp] theorem State.noteOverrun_ovr : s.noteOverrun.ovr = true := rfl
@[simp] theorem State.noteOverrun_errCode : s.noteOverrun.errCode = s.errCode := rfl
@[simp] theorem State.noteOverrun_padcfg : s.noteOverrun.padcfg = s.padcfg := rfl
@[simp] theorem State.noteOverrun_key : s.noteOverrun.key = s.key := rfl
@[simp] theorem State.noteOverrun_keyLen : s.noteOverrun.keyLen = s.keyLen := rfl
@[simp] theorem State.noteOverrun_msgLen : s.noteOverrun.msgLen = s.msgLen := rfl
@[simp] theorem State.noteOverrun_outLen : s.noteOverrun.outLen = s.outLen := rfl
@[simp] theorem State.noteOverrun_blk : s.noteOverrun.blk = s.blk := rfl
@[simp] theorem State.noteOverrun_blkIdx : s.noteOverrun.blkIdx = s.blkIdx := rfl
@[simp] theorem State.noteOverrun_ksValid : s.noteOverrun.ksValid = s.ksValid := rfl
@[simp] theorem State.noteOverrun_sk : s.noteOverrun.sk = s.sk := rfl
@[simp] theorem State.noteOverrun_c : s.noteOverrun.c = s.c := rfl
@[simp] theorem State.noteOverrun_d : s.noteOverrun.d = s.d := rfl
@[simp] theorem State.noteOverrun_l : s.noteOverrun.l = s.l := rfl
@[simp] theorem State.noteOverrun_r : s.noteOverrun.r = s.r := rfl
@[simp] theorem State.noteOverrun_phase : s.noteOverrun.phase = s.phase := rfl
@[simp] theorem State.noteOverrun_round : s.noteOverrun.round = s.round := rfl
@[simp] theorem State.noteOverrun_curOp : s.noteOverrun.curOp = s.curOp := rfl
@[simp] theorem State.noteOverrun_curDir : s.noteOverrun.curDir = s.curDir := rfl
@[simp] theorem State.noteOverrun_nblk : s.noteOverrun.nblk = s.nblk := rfl
@[simp] theorem State.noteOverrun_padv : s.noteOverrun.padv = s.padv := rfl
@[simp] theorem State.noteOverrun_lenL : s.noteOverrun.lenL = s.lenL := rfl
@[simp] theorem State.noteOverrun_mbuf : s.noteOverrun.mbuf = s.mbuf := rfl
@[simp] theorem State.noteOverrun_host : s.noteOverrun.host = s.host := rfl
@[simp] theorem State.noteOverrun_turns : s.noteOverrun.turns = s.turns := rfl
@[simp] theorem State.noteOverrun_readLog : s.noteOverrun.readLog = s.readLog := rfl

/-! `State.raiseError`: R222: the four fields of an error, and nothing else. -/

@[simp] theorem State.raiseError_params (e : ErrCode) : (s.raiseError e).params = s.params := rfl
@[simp] theorem State.raiseError_busy (e : ErrCode) : (s.raiseError e).busy = s.busy := rfl
@[simp] theorem State.raiseError_done (e : ErrCode) : (s.raiseError e).done = true := rfl
@[simp] theorem State.raiseError_err (e : ErrCode) : (s.raiseError e).err = true := rfl
@[simp] theorem State.raiseError_ovr (e : ErrCode) : (s.raiseError e).ovr = s.ovr := rfl
@[simp] theorem State.raiseError_errCode (e : ErrCode) : (s.raiseError e).errCode = e := rfl
@[simp] theorem State.raiseError_padcfg (e : ErrCode) : (s.raiseError e).padcfg = s.padcfg := rfl
@[simp] theorem State.raiseError_key (e : ErrCode) : (s.raiseError e).key = s.key := rfl
@[simp] theorem State.raiseError_keyLen (e : ErrCode) : (s.raiseError e).keyLen = s.keyLen := rfl
@[simp] theorem State.raiseError_msgLen (e : ErrCode) : (s.raiseError e).msgLen = s.msgLen := rfl
@[simp] theorem State.raiseError_outLen (e : ErrCode) : (s.raiseError e).outLen = 0#32 := rfl
@[simp] theorem State.raiseError_blk (e : ErrCode) : (s.raiseError e).blk = s.blk := rfl
@[simp] theorem State.raiseError_blkIdx (e : ErrCode) : (s.raiseError e).blkIdx = s.blkIdx := rfl
@[simp] theorem State.raiseError_ksValid (e : ErrCode) : (s.raiseError e).ksValid = s.ksValid := rfl
@[simp] theorem State.raiseError_sk (e : ErrCode) : (s.raiseError e).sk = s.sk := rfl
@[simp] theorem State.raiseError_c (e : ErrCode) : (s.raiseError e).c = s.c := rfl
@[simp] theorem State.raiseError_d (e : ErrCode) : (s.raiseError e).d = s.d := rfl
@[simp] theorem State.raiseError_l (e : ErrCode) : (s.raiseError e).l = s.l := rfl
@[simp] theorem State.raiseError_r (e : ErrCode) : (s.raiseError e).r = s.r := rfl
@[simp] theorem State.raiseError_phase (e : ErrCode) : (s.raiseError e).phase = s.phase := rfl
@[simp] theorem State.raiseError_round (e : ErrCode) : (s.raiseError e).round = s.round := rfl
@[simp] theorem State.raiseError_curOp (e : ErrCode) : (s.raiseError e).curOp = s.curOp := rfl
@[simp] theorem State.raiseError_curDir (e : ErrCode) : (s.raiseError e).curDir = s.curDir := rfl
@[simp] theorem State.raiseError_nblk (e : ErrCode) : (s.raiseError e).nblk = s.nblk := rfl
@[simp] theorem State.raiseError_padv (e : ErrCode) : (s.raiseError e).padv = s.padv := rfl
@[simp] theorem State.raiseError_lenL (e : ErrCode) : (s.raiseError e).lenL = s.lenL := rfl
@[simp] theorem State.raiseError_mbuf (e : ErrCode) : (s.raiseError e).mbuf = s.mbuf := rfl
@[simp] theorem State.raiseError_host (e : ErrCode) : (s.raiseError e).host = s.host := rfl
@[simp] theorem State.raiseError_turns (e : ErrCode) : (s.raiseError e).turns = s.turns := rfl
@[simp] theorem State.raiseError_readLog (e : ErrCode) : (s.raiseError e).readLog = s.readLog := rfl

/-! `State.start`: R193, R103. -/

@[simp] theorem State.start_params (cmd : Work) (n : Nat) (pv : Byte) : (s.start cmd n pv).params = s.params := rfl
@[simp] theorem State.start_busy (cmd : Work) (n : Nat) (pv : Byte) : (s.start cmd n pv).busy = true := rfl
@[simp] theorem State.start_done (cmd : Work) (n : Nat) (pv : Byte) : (s.start cmd n pv).done = s.done := rfl
@[simp] theorem State.start_err (cmd : Work) (n : Nat) (pv : Byte) : (s.start cmd n pv).err = s.err := rfl
@[simp] theorem State.start_ovr (cmd : Work) (n : Nat) (pv : Byte) : (s.start cmd n pv).ovr = s.ovr := rfl
@[simp] theorem State.start_errCode (cmd : Work) (n : Nat) (pv : Byte) : (s.start cmd n pv).errCode = s.errCode := rfl
@[simp] theorem State.start_padcfg (cmd : Work) (n : Nat) (pv : Byte) : (s.start cmd n pv).padcfg = s.padcfg := rfl
@[simp] theorem State.start_key (cmd : Work) (n : Nat) (pv : Byte) : (s.start cmd n pv).key = s.key := rfl
@[simp] theorem State.start_keyLen (cmd : Work) (n : Nat) (pv : Byte) : (s.start cmd n pv).keyLen = s.keyLen := rfl
@[simp] theorem State.start_msgLen (cmd : Work) (n : Nat) (pv : Byte) : (s.start cmd n pv).msgLen = s.msgLen := rfl
@[simp] theorem State.start_outLen (cmd : Work) (n : Nat) (pv : Byte) : (s.start cmd n pv).outLen = s.outLen := rfl
@[simp] theorem State.start_blk (cmd : Work) (n : Nat) (pv : Byte) : (s.start cmd n pv).blk = s.blk := rfl
@[simp] theorem State.start_blkIdx (cmd : Work) (n : Nat) (pv : Byte) : (s.start cmd n pv).blkIdx = 0#32 := rfl
@[simp] theorem State.start_ksValid (cmd : Work) (n : Nat) (pv : Byte) : (s.start cmd n pv).ksValid = false := rfl
@[simp] theorem State.start_sk (cmd : Work) (n : Nat) (pv : Byte) : (s.start cmd n pv).sk = s.sk := rfl
@[simp] theorem State.start_c (cmd : Work) (n : Nat) (pv : Byte) : (s.start cmd n pv).c = (keyHalves s.key).1 := rfl
@[simp] theorem State.start_d (cmd : Work) (n : Nat) (pv : Byte) : (s.start cmd n pv).d = (keyHalves s.key).2 := rfl
@[simp] theorem State.start_l (cmd : Work) (n : Nat) (pv : Byte) : (s.start cmd n pv).l = s.l := rfl
@[simp] theorem State.start_r (cmd : Work) (n : Nat) (pv : Byte) : (s.start cmd n pv).r = s.r := rfl
@[simp] theorem State.start_phase (cmd : Work) (n : Nat) (pv : Byte) : (s.start cmd n pv).phase = .ks := rfl
@[simp] theorem State.start_round (cmd : Work) (n : Nat) (pv : Byte) : (s.start cmd n pv).round = 0#5 := rfl
@[simp] theorem State.start_curOp (cmd : Work) (n : Nat) (pv : Byte) : (s.start cmd n pv).curOp = cmd.curOp := rfl
@[simp] theorem State.start_curDir (cmd : Work) (n : Nat) (pv : Byte) : (s.start cmd n pv).curDir = cmd.curDir := rfl
@[simp] theorem State.start_nblk (cmd : Work) (n : Nat) (pv : Byte) : (s.start cmd n pv).nblk = BitVec.ofNat 32 n := rfl
@[simp] theorem State.start_padv (cmd : Work) (n : Nat) (pv : Byte) : (s.start cmd n pv).padv = pv := rfl
@[simp] theorem State.start_lenL (cmd : Work) (n : Nat) (pv : Byte) : (s.start cmd n pv).lenL = s.msgLen := rfl
@[simp] theorem State.start_mbuf (cmd : Work) (n : Nat) (pv : Byte) : (s.start cmd n pv).mbuf = s.mbuf := rfl
@[simp] theorem State.start_host (cmd : Work) (n : Nat) (pv : Byte) : (s.start cmd n pv).host = s.host := rfl
@[simp] theorem State.start_turns (cmd : Work) (n : Nat) (pv : Byte) : (s.start cmd n pv).turns = s.turns := rfl
@[simp] theorem State.start_readLog (cmd : Work) (n : Nat) (pv : Byte) : (s.start cmd n pv).readLog = s.readLog := rfl

/-! `State.finish`: R197. -/

@[simp] theorem State.finish_params : s.finish.params = s.params := rfl
@[simp] theorem State.finish_busy : s.finish.busy = false := rfl
@[simp] theorem State.finish_done : s.finish.done = true := rfl
@[simp] theorem State.finish_err : s.finish.err = s.err := rfl
@[simp] theorem State.finish_ovr : s.finish.ovr = s.ovr := rfl
@[simp] theorem State.finish_errCode : s.finish.errCode = s.errCode := rfl
@[simp] theorem State.finish_padcfg : s.finish.padcfg = s.padcfg := rfl
@[simp] theorem State.finish_key : s.finish.key = s.key := rfl
@[simp] theorem State.finish_keyLen : s.finish.keyLen = s.keyLen := rfl
@[simp] theorem State.finish_msgLen : s.finish.msgLen = s.msgLen := rfl
@[simp] theorem State.finish_outLen : s.finish.outLen = s.finishedLength := rfl
@[simp] theorem State.finish_blk : s.finish.blk = s.blk := rfl
@[simp] theorem State.finish_blkIdx : s.finish.blkIdx = s.blkIdx := rfl
@[simp] theorem State.finish_ksValid : s.finish.ksValid = s.ksValid := rfl
@[simp] theorem State.finish_sk : s.finish.sk = s.sk := rfl
@[simp] theorem State.finish_c : s.finish.c = s.c := rfl
@[simp] theorem State.finish_d : s.finish.d = s.d := rfl
@[simp] theorem State.finish_l : s.finish.l = s.l := rfl
@[simp] theorem State.finish_r : s.finish.r = s.r := rfl
@[simp] theorem State.finish_phase : s.finish.phase = .idle := rfl
@[simp] theorem State.finish_round : s.finish.round = 0#5 := rfl
@[simp] theorem State.finish_curOp : s.finish.curOp = s.curOp := rfl
@[simp] theorem State.finish_curDir : s.finish.curDir = s.curDir := rfl
@[simp] theorem State.finish_nblk : s.finish.nblk = s.nblk := rfl
@[simp] theorem State.finish_padv : s.finish.padv = s.padv := rfl
@[simp] theorem State.finish_lenL : s.finish.lenL = s.lenL := rfl
@[simp] theorem State.finish_mbuf : s.finish.mbuf = s.mbuf := rfl
@[simp] theorem State.finish_host : s.finish.host = s.host := rfl
@[simp] theorem State.finish_turns : s.finish.turns = s.turns := rfl
@[simp] theorem State.finish_readLog : s.finish.readLog = s.readLog := rfl

/-! `State.softReset`: R251: every element but MBUF at its reset value. -/

@[simp] theorem State.softReset_params : s.softReset.params = s.params := rfl
@[simp] theorem State.softReset_busy : s.softReset.busy = false := rfl
@[simp] theorem State.softReset_done : s.softReset.done = false := rfl
@[simp] theorem State.softReset_err : s.softReset.err = false := rfl
@[simp] theorem State.softReset_ovr : s.softReset.ovr = false := rfl
@[simp] theorem State.softReset_errCode : s.softReset.errCode = .none := rfl
@[simp] theorem State.softReset_padcfg : s.softReset.padcfg = PadCfg.reset := rfl
@[simp] theorem State.softReset_key : s.softReset.key = 0#64 := rfl
@[simp] theorem State.softReset_keyLen : s.softReset.keyLen = 0#8 := rfl
@[simp] theorem State.softReset_msgLen : s.softReset.msgLen = 0#32 := rfl
@[simp] theorem State.softReset_outLen : s.softReset.outLen = 0#32 := rfl
@[simp] theorem State.softReset_blk : s.softReset.blk = 0#64 := rfl
@[simp] theorem State.softReset_blkIdx : s.softReset.blkIdx = 0#32 := rfl
@[simp] theorem State.softReset_ksValid : s.softReset.ksValid = false := rfl
@[simp] theorem State.softReset_sk : s.softReset.sk = Vector.replicate 16 0#48 := rfl
@[simp] theorem State.softReset_c : s.softReset.c = 0#28 := rfl
@[simp] theorem State.softReset_d : s.softReset.d = 0#28 := rfl
@[simp] theorem State.softReset_l : s.softReset.l = 0#32 := rfl
@[simp] theorem State.softReset_r : s.softReset.r = 0#32 := rfl
@[simp] theorem State.softReset_phase : s.softReset.phase = .idle := rfl
@[simp] theorem State.softReset_round : s.softReset.round = 0#5 := rfl
@[simp] theorem State.softReset_curOp : s.softReset.curOp = .none := rfl
@[simp] theorem State.softReset_curDir : s.softReset.curDir = .encrypt := rfl
@[simp] theorem State.softReset_nblk : s.softReset.nblk = 0#32 := rfl
@[simp] theorem State.softReset_padv : s.softReset.padv = 0#8 := rfl
@[simp] theorem State.softReset_lenL : s.softReset.lenL = 0#32 := rfl
@[simp] theorem State.softReset_mbuf : s.softReset.mbuf = s.mbuf := rfl
@[simp] theorem State.softReset_host : s.softReset.host = s.host := rfl
@[simp] theorem State.softReset_turns : s.softReset.turns = s.turns := rfl
@[simp] theorem State.softReset_readLog : s.softReset.readLog = s.readLog := rfl

/-! `State.setSubkey`: R41. -/

@[simp] theorem State.setSubkey_params (i : Nat) (v : Subkey) : (s.setSubkey i v).params = s.params := rfl
@[simp] theorem State.setSubkey_busy (i : Nat) (v : Subkey) : (s.setSubkey i v).busy = s.busy := rfl
@[simp] theorem State.setSubkey_done (i : Nat) (v : Subkey) : (s.setSubkey i v).done = s.done := rfl
@[simp] theorem State.setSubkey_err (i : Nat) (v : Subkey) : (s.setSubkey i v).err = s.err := rfl
@[simp] theorem State.setSubkey_ovr (i : Nat) (v : Subkey) : (s.setSubkey i v).ovr = s.ovr := rfl
@[simp] theorem State.setSubkey_errCode (i : Nat) (v : Subkey) : (s.setSubkey i v).errCode = s.errCode := rfl
@[simp] theorem State.setSubkey_padcfg (i : Nat) (v : Subkey) : (s.setSubkey i v).padcfg = s.padcfg := rfl
@[simp] theorem State.setSubkey_key (i : Nat) (v : Subkey) : (s.setSubkey i v).key = s.key := rfl
@[simp] theorem State.setSubkey_keyLen (i : Nat) (v : Subkey) : (s.setSubkey i v).keyLen = s.keyLen := rfl
@[simp] theorem State.setSubkey_msgLen (i : Nat) (v : Subkey) : (s.setSubkey i v).msgLen = s.msgLen := rfl
@[simp] theorem State.setSubkey_outLen (i : Nat) (v : Subkey) : (s.setSubkey i v).outLen = s.outLen := rfl
@[simp] theorem State.setSubkey_blk (i : Nat) (v : Subkey) : (s.setSubkey i v).blk = s.blk := rfl
@[simp] theorem State.setSubkey_blkIdx (i : Nat) (v : Subkey) : (s.setSubkey i v).blkIdx = s.blkIdx := rfl
@[simp] theorem State.setSubkey_ksValid (i : Nat) (v : Subkey) : (s.setSubkey i v).ksValid = s.ksValid := rfl
@[simp] theorem State.setSubkey_sk (i : Nat) (v : Subkey) : (s.setSubkey i v).sk = if 1 ≤ i then s.sk.setIfInBounds (i - 1) v else s.sk := rfl
@[simp] theorem State.setSubkey_c (i : Nat) (v : Subkey) : (s.setSubkey i v).c = s.c := rfl
@[simp] theorem State.setSubkey_d (i : Nat) (v : Subkey) : (s.setSubkey i v).d = s.d := rfl
@[simp] theorem State.setSubkey_l (i : Nat) (v : Subkey) : (s.setSubkey i v).l = s.l := rfl
@[simp] theorem State.setSubkey_r (i : Nat) (v : Subkey) : (s.setSubkey i v).r = s.r := rfl
@[simp] theorem State.setSubkey_phase (i : Nat) (v : Subkey) : (s.setSubkey i v).phase = s.phase := rfl
@[simp] theorem State.setSubkey_round (i : Nat) (v : Subkey) : (s.setSubkey i v).round = s.round := rfl
@[simp] theorem State.setSubkey_curOp (i : Nat) (v : Subkey) : (s.setSubkey i v).curOp = s.curOp := rfl
@[simp] theorem State.setSubkey_curDir (i : Nat) (v : Subkey) : (s.setSubkey i v).curDir = s.curDir := rfl
@[simp] theorem State.setSubkey_nblk (i : Nat) (v : Subkey) : (s.setSubkey i v).nblk = s.nblk := rfl
@[simp] theorem State.setSubkey_padv (i : Nat) (v : Subkey) : (s.setSubkey i v).padv = s.padv := rfl
@[simp] theorem State.setSubkey_lenL (i : Nat) (v : Subkey) : (s.setSubkey i v).lenL = s.lenL := rfl
@[simp] theorem State.setSubkey_mbuf (i : Nat) (v : Subkey) : (s.setSubkey i v).mbuf = s.mbuf := rfl
@[simp] theorem State.setSubkey_host (i : Nat) (v : Subkey) : (s.setSubkey i v).host = s.host := rfl
@[simp] theorem State.setSubkey_turns (i : Nat) (v : Subkey) : (s.setSubkey i v).turns = s.turns := rfl
@[simp] theorem State.setSubkey_readLog (i : Nat) (v : Subkey) : (s.setSubkey i v).readLog = s.readLog := rfl

/-! `State.recordRead`: R69: a read changes the host's record only. -/

@[simp] theorem State.recordRead_params (v : Word) : (s.recordRead v).params = s.params := rfl
@[simp] theorem State.recordRead_busy (v : Word) : (s.recordRead v).busy = s.busy := rfl
@[simp] theorem State.recordRead_done (v : Word) : (s.recordRead v).done = s.done := rfl
@[simp] theorem State.recordRead_err (v : Word) : (s.recordRead v).err = s.err := rfl
@[simp] theorem State.recordRead_ovr (v : Word) : (s.recordRead v).ovr = s.ovr := rfl
@[simp] theorem State.recordRead_errCode (v : Word) : (s.recordRead v).errCode = s.errCode := rfl
@[simp] theorem State.recordRead_padcfg (v : Word) : (s.recordRead v).padcfg = s.padcfg := rfl
@[simp] theorem State.recordRead_key (v : Word) : (s.recordRead v).key = s.key := rfl
@[simp] theorem State.recordRead_keyLen (v : Word) : (s.recordRead v).keyLen = s.keyLen := rfl
@[simp] theorem State.recordRead_msgLen (v : Word) : (s.recordRead v).msgLen = s.msgLen := rfl
@[simp] theorem State.recordRead_outLen (v : Word) : (s.recordRead v).outLen = s.outLen := rfl
@[simp] theorem State.recordRead_blk (v : Word) : (s.recordRead v).blk = s.blk := rfl
@[simp] theorem State.recordRead_blkIdx (v : Word) : (s.recordRead v).blkIdx = s.blkIdx := rfl
@[simp] theorem State.recordRead_ksValid (v : Word) : (s.recordRead v).ksValid = s.ksValid := rfl
@[simp] theorem State.recordRead_sk (v : Word) : (s.recordRead v).sk = s.sk := rfl
@[simp] theorem State.recordRead_c (v : Word) : (s.recordRead v).c = s.c := rfl
@[simp] theorem State.recordRead_d (v : Word) : (s.recordRead v).d = s.d := rfl
@[simp] theorem State.recordRead_l (v : Word) : (s.recordRead v).l = s.l := rfl
@[simp] theorem State.recordRead_r (v : Word) : (s.recordRead v).r = s.r := rfl
@[simp] theorem State.recordRead_phase (v : Word) : (s.recordRead v).phase = s.phase := rfl
@[simp] theorem State.recordRead_round (v : Word) : (s.recordRead v).round = s.round := rfl
@[simp] theorem State.recordRead_curOp (v : Word) : (s.recordRead v).curOp = s.curOp := rfl
@[simp] theorem State.recordRead_curDir (v : Word) : (s.recordRead v).curDir = s.curDir := rfl
@[simp] theorem State.recordRead_nblk (v : Word) : (s.recordRead v).nblk = s.nblk := rfl
@[simp] theorem State.recordRead_padv (v : Word) : (s.recordRead v).padv = s.padv := rfl
@[simp] theorem State.recordRead_lenL (v : Word) : (s.recordRead v).lenL = s.lenL := rfl
@[simp] theorem State.recordRead_mbuf (v : Word) : (s.recordRead v).mbuf = s.mbuf := rfl
@[simp] theorem State.recordRead_host (v : Word) : (s.recordRead v).host = s.host := rfl
@[simp] theorem State.recordRead_turns (v : Word) : (s.recordRead v).turns = s.turns := rfl
@[simp] theorem State.recordRead_readLog (v : Word) : (s.recordRead v).readLog = v :: s.readLog := rfl

/-! `State.loadStep`: R143. -/

@[simp] theorem State.loadStep_params : s.loadStep.params = s.params := rfl
@[simp] theorem State.loadStep_busy : s.loadStep.busy = s.busy := rfl
@[simp] theorem State.loadStep_done : s.loadStep.done = s.done := rfl
@[simp] theorem State.loadStep_err : s.loadStep.err = s.err := rfl
@[simp] theorem State.loadStep_ovr : s.loadStep.ovr = s.ovr := rfl
@[simp] theorem State.loadStep_errCode : s.loadStep.errCode = s.errCode := rfl
@[simp] theorem State.loadStep_padcfg : s.loadStep.padcfg = s.padcfg := rfl
@[simp] theorem State.loadStep_key : s.loadStep.key = s.key := rfl
@[simp] theorem State.loadStep_keyLen : s.loadStep.keyLen = s.keyLen := rfl
@[simp] theorem State.loadStep_msgLen : s.loadStep.msgLen = s.msgLen := rfl
@[simp] theorem State.loadStep_outLen : s.loadStep.outLen = s.outLen := rfl
@[simp] theorem State.loadStep_blk : s.loadStep.blk = s.blk := rfl
@[simp] theorem State.loadStep_blkIdx : s.loadStep.blkIdx = s.blkIdx := rfl
@[simp] theorem State.loadStep_ksValid : s.loadStep.ksValid = s.ksValid := rfl
@[simp] theorem State.loadStep_sk : s.loadStep.sk = s.sk := rfl
@[simp] theorem State.loadStep_c : s.loadStep.c = s.c := rfl
@[simp] theorem State.loadStep_d : s.loadStep.d = s.d := rfl
@[simp] theorem State.loadStep_l : s.loadStep.l = (blockHalves s.loadOperand).1 := rfl
@[simp] theorem State.loadStep_r : s.loadStep.r = (blockHalves s.loadOperand).2 := rfl
@[simp] theorem State.loadStep_phase : s.loadStep.phase = .rnd := rfl
@[simp] theorem State.loadStep_round : s.loadStep.round = 0#5 := rfl
@[simp] theorem State.loadStep_curOp : s.loadStep.curOp = s.curOp := rfl
@[simp] theorem State.loadStep_curDir : s.loadStep.curDir = s.curDir := rfl
@[simp] theorem State.loadStep_nblk : s.loadStep.nblk = s.nblk := rfl
@[simp] theorem State.loadStep_padv : s.loadStep.padv = s.padv := rfl
@[simp] theorem State.loadStep_lenL : s.loadStep.lenL = s.lenL := rfl
@[simp] theorem State.loadStep_mbuf : s.loadStep.mbuf = s.mbuf := rfl
@[simp] theorem State.loadStep_host : s.loadStep.host = s.host := rfl
@[simp] theorem State.loadStep_turns : s.loadStep.turns = s.turns := rfl
@[simp] theorem State.loadStep_readLog : s.loadStep.readLog = s.readLog := rfl

/-! `State.takeTurn`: a choice uses up one entry of the turn order and nothing else (R70). -/

@[simp] theorem State.takeTurn_params : s.takeTurn.params = s.params := by unfold State.takeTurn; split <;> rfl
@[simp] theorem State.takeTurn_busy : s.takeTurn.busy = s.busy := by unfold State.takeTurn; split <;> rfl
@[simp] theorem State.takeTurn_done : s.takeTurn.done = s.done := by unfold State.takeTurn; split <;> rfl
@[simp] theorem State.takeTurn_err : s.takeTurn.err = s.err := by unfold State.takeTurn; split <;> rfl
@[simp] theorem State.takeTurn_ovr : s.takeTurn.ovr = s.ovr := by unfold State.takeTurn; split <;> rfl
@[simp] theorem State.takeTurn_errCode : s.takeTurn.errCode = s.errCode := by unfold State.takeTurn; split <;> rfl
@[simp] theorem State.takeTurn_padcfg : s.takeTurn.padcfg = s.padcfg := by unfold State.takeTurn; split <;> rfl
@[simp] theorem State.takeTurn_key : s.takeTurn.key = s.key := by unfold State.takeTurn; split <;> rfl
@[simp] theorem State.takeTurn_keyLen : s.takeTurn.keyLen = s.keyLen := by unfold State.takeTurn; split <;> rfl
@[simp] theorem State.takeTurn_msgLen : s.takeTurn.msgLen = s.msgLen := by unfold State.takeTurn; split <;> rfl
@[simp] theorem State.takeTurn_outLen : s.takeTurn.outLen = s.outLen := by unfold State.takeTurn; split <;> rfl
@[simp] theorem State.takeTurn_blk : s.takeTurn.blk = s.blk := by unfold State.takeTurn; split <;> rfl
@[simp] theorem State.takeTurn_blkIdx : s.takeTurn.blkIdx = s.blkIdx := by unfold State.takeTurn; split <;> rfl
@[simp] theorem State.takeTurn_ksValid : s.takeTurn.ksValid = s.ksValid := by unfold State.takeTurn; split <;> rfl
@[simp] theorem State.takeTurn_sk : s.takeTurn.sk = s.sk := by unfold State.takeTurn; split <;> rfl
@[simp] theorem State.takeTurn_c : s.takeTurn.c = s.c := by unfold State.takeTurn; split <;> rfl
@[simp] theorem State.takeTurn_d : s.takeTurn.d = s.d := by unfold State.takeTurn; split <;> rfl
@[simp] theorem State.takeTurn_l : s.takeTurn.l = s.l := by unfold State.takeTurn; split <;> rfl
@[simp] theorem State.takeTurn_r : s.takeTurn.r = s.r := by unfold State.takeTurn; split <;> rfl
@[simp] theorem State.takeTurn_phase : s.takeTurn.phase = s.phase := by unfold State.takeTurn; split <;> rfl
@[simp] theorem State.takeTurn_round : s.takeTurn.round = s.round := by unfold State.takeTurn; split <;> rfl
@[simp] theorem State.takeTurn_curOp : s.takeTurn.curOp = s.curOp := by unfold State.takeTurn; split <;> rfl
@[simp] theorem State.takeTurn_curDir : s.takeTurn.curDir = s.curDir := by unfold State.takeTurn; split <;> rfl
@[simp] theorem State.takeTurn_nblk : s.takeTurn.nblk = s.nblk := by unfold State.takeTurn; split <;> rfl
@[simp] theorem State.takeTurn_padv : s.takeTurn.padv = s.padv := by unfold State.takeTurn; split <;> rfl
@[simp] theorem State.takeTurn_lenL : s.takeTurn.lenL = s.lenL := by unfold State.takeTurn; split <;> rfl
@[simp] theorem State.takeTurn_mbuf : s.takeTurn.mbuf = s.mbuf := by unfold State.takeTurn; split <;> rfl
@[simp] theorem State.takeTurn_host : s.takeTurn.host = s.host := by unfold State.takeTurn; split <;> rfl
@[simp] theorem State.takeTurn_readLog : s.takeTurn.readLog = s.readLog := by unfold State.takeTurn; split <;> rfl

end

end Sys2Proof.Machine
end

