-- ==== Sys2Proof/Laws/Bus.lean ====
section
/-! SUPPORT. What the shared operations of the bus and of the commands can do, said once. -/

namespace Sys2Proof.Machine

/-- Which accesses are taken, by R62 and R64 (`Access.wf`), is what the bus takes. -/
theorem targetOf_eq_none (p : Params) (t : Access) :
    targetOf p.msgBytes t.off.toNat t.width = none ↔ t.wf p = false := by
  unfold targetOf Access.wf
  by_cases h : t.off.toNat < 0x1000
  · rw [if_pos h, if_pos h]
    by_cases hw : t.width = 4 <;> by_cases hm : t.off.toNat % 4 = 0 <;> simp [hw, hm]
  · rw [if_neg h, if_neg h]
    have e1 : (t.off.toNat - 0x1000) % 4 = t.off.toNat % 4 := by omega
    have e2 : t.off.toNat - 0x1000 + t.width ≤ p.msgBytes ↔ t.off.toNat + t.width ≤ 0x1000 + p.msgBytes := by omega
    simp only [e1, e2]
    by_cases h1 : t.width = 1 <;> by_cases h4 : t.width = 4 <;> by_cases hm : t.off.toNat % 4 = 0 <;>
      by_cases hb : t.off.toNat + t.width ≤ 0x1000 + p.msgBytes <;> simp_all

/-- Every command answers a next state. -/
theorem exec_next (i : Instr) (s : State) : ∃ t, exec i s = .next t := by
  cases i <;> exact ⟨_, rfl⟩

theorem commandWrite_next (w : Word) (s : State) : ∃ t, commandWrite w s = .next t := by
  unfold commandWrite
  split
  · exact exec_next _ _
  · exact ⟨_, rfl⟩

theorem hostWrite_next (g : Target) (w : Word) (s : State) : ∃ t, hostWrite g w s = .next t := by
  unfold hostWrite
  split
  · exact commandWrite_next w s
  · exact ⟨_, rfl⟩

/-- One host access: a bus fault if it is not taken, a next state otherwise. -/
theorem busAccess_cases (t : Access) (s : State) :
    (t.wf s.params = false ∧ busAccess t s = .fault .hostBusFault) ∨
    (t.wf s.params = true ∧ ∃ u, busAccess t s = .next u) := by
  unfold busAccess
  cases h : targetOf s.params.msgBytes t.off.toNat t.width with
  | none => exact .inl ⟨(targetOf_eq_none _ _).mp h, rfl⟩
  | some g =>
    refine .inr ⟨?_, ?_⟩
    · by_contra hc
      rw [(targetOf_eq_none s.params t).mpr (by simpa using hc)] at h
      cases h
    · cases t.rw
      · exact ⟨_, rfl⟩
      · exact hostWrite_next _ _ _

/-- A bus cycle at `BASE` plus an offset is the access at that offset. -/
@[simp] theorem cycleAccess_base_add (p : Params) (t : Access) :
    cycleAccess p { rw := t.rw, addr := p.base + t.off.toNat, width := t.width, data := t.data } = some t := by
  simp [cycleAccess, t.off.isLt]

/-- What a bus cycle that makes an access says of its address. -/
theorem cycleAccess_addr (p : Params) (b : BusCycle) (t : Access) (h : cycleAccess p b = some t) :
    b.addr = p.base + t.off.toNat ∧ t.rw = b.rw ∧ t.width = b.width ∧ t.data = b.data := by
  unfold cycleAccess at h
  split at h
  · cases h
    have : (BitVec.ofNat 32 (b.addr - p.base)).toNat = b.addr - p.base := by
      rw [BitVec.toNat_ofNat, Nat.mod_eq_of_lt (by omega)]
    exact ⟨by simp only [this]; omega, rfl, rfl, rfl⟩
  · cases h

/-- What the bus takes reaches something. -/
theorem targetOf_of_wf (p : Params) (t : Access) (h : t.wf p = true) :
    ∃ g, targetOf p.msgBytes t.off.toNat t.width = some g := by
  cases hg : targetOf p.msgBytes t.off.toNat t.width with
  | none => rw [(targetOf_eq_none p t).mp hg] at h; cases h
  | some g => exact ⟨g, rfl⟩

/-- A taken write while idle, other than to `CMD`. -/
theorem hostWrite_idle (g : Target) (w : Word) (s : State) (hg : g ≠ .register .cmd) (hb : s.busy = false) :
    hostWrite g w s = .next (s.writeTarget w g) := by
  unfold hostWrite
  split
  · exact absurd rfl hg
  · simp [State.unlessBusy, hb]

/-- A taken write while busy, other than to `CMD`, sets `OVR` (R257). -/
theorem hostWrite_busy (g : Target) (w : Word) (s : State) (hg : g ≠ .register .cmd) (hb : s.busy = true) :
    hostWrite g w s = .next s.noteOverrun := by
  unfold hostWrite
  split
  · exact absurd rfl hg
  · simp [State.unlessBusy, hb]

/-- Only offset `0x004` is `CMD`. -/
theorem regAt_eq_cmd (off : Nat) : regAt off = .cmd ↔ off = 0x004 := by
  constructor
  · intro h
    unfold regAt at h
    split at h
    · split at h <;> cases h
    · by_contra hc
      simp only [regTable, List.cons_append, List.nil_append, List.lookup_cons, List.lookup_nil] at h
      repeat' split at h
      all_goals first
        | (simp at h; done)
        | (rename_i hx; exact hc (by simpa using hx))
  · rintro rfl; rfl

/-- A 32-bit write to the register an offset names. -/
theorem busAccess_wr32 (off w : Word) (s : State) (r : Reg)
    (h : targetOf s.params.msgBytes off.toNat 4 = some (.register r)) :
    busAccess (Access.wr32 off w) s = hostWrite (.register r) w s := by
  unfold busAccess
  have e : targetOf s.params.msgBytes (Access.wr32 off w).off.toNat (Access.wr32 off w).width =
    some (.register r) := h
  rw [e]
  rfl

/-- A 32-bit read of the register an offset names. -/
theorem busAccess_rd32 (off : Word) (s : State) (r : Reg)
    (h : targetOf s.params.msgBytes off.toNat 4 = some (.register r)) :
    busAccess (Access.rd32 off) s = .next (s.recordRead (s.readReg r)) := by
  unfold busAccess
  have e : targetOf s.params.msgBytes (Access.rd32 off).off.toNat (Access.rd32 off).width =
    some (.register r) := h
  rw [e]
  rfl

/-- The presentation of a command word reaches `CMD` (R23). -/
theorem busAccess_command (w : Word) (s : State) : busAccess (Access.command w) s = commandWrite w s :=
  busAccess_wr32 0x004#32 w s .cmd rfl

/-- Where an access of MBUF lies (R62, R64): inside the capacity, behind the register window. -/
theorem targetOf_buffer (cap off width a n : Nat) (h : targetOf cap off width = some (.buffer a n)) :
    off = 0x1000 + a ∧ n = width ∧ a + n ≤ cap := by
  unfold targetOf at h
  split at h
  · split at h <;> cases h
  · simp only [Option.ite_none_right_eq_some, Option.some.injEq, Target.buffer.injEq] at h
    obtain ⟨⟨-, hle⟩, ha, hn⟩ := h
    rw [← ha, ← hn]
    exact ⟨by omega, rfl, hle⟩

end Sys2Proof.Machine
end

