-- ==== Sys2Proof/Laws/Commands.lean ====
section
/-! SUPPORT. What the issue of a command can do, said once: it fails with four fields changed, or it starts. -/

namespace Sys2Proof.Machine

/-- The datapath command an instruction issues. -/
def workOf : Instr → Option Work
  | .nop => none
  | .keygen => some .keygen
  | .blockE => some (.block .encrypt)
  | .blockD => some (.block .decrypt)
  | .cryptE => some (.crypt .encrypt)
  | .cryptD => some (.crypt .decrypt)
  | .clear => none

/-- R222: a failing issue. -/
theorem issue_error (s : State) (cmd : Work) (e : ErrCode) (h : s.checkIssue cmd = .error e) :
    s.issue cmd = s.raiseError e := by
  unfold State.issue
  have : ({ s.acknowledge with outLen := 0#32 } : State).checkIssue cmd = s.checkIssue cmd := rfl
  simp only [this, h]
  rfl

/-- R193: a successful issue. -/
theorem issue_ok (s : State) (cmd : Work) (n : Nat) (pv : Byte) (h : s.checkIssue cmd = .ok (n, pv)) :
    s.issue cmd = { s.start cmd n pv with done := false, err := false, errCode := .none, outLen := 0#32 } := by
  unfold State.issue
  have : ({ s.acknowledge with outLen := 0#32 } : State).checkIssue cmd = s.checkIssue cmd := rfl
  simp only [this, h]
  rfl

/-- While busy every command but CLEAR is an ignored write (R257). -/
theorem exec_busy (i : Instr) (s : State) (hb : s.busy = true) (hi : i ≠ .clear) : exec i s = .next s.noteOverrun := by
  cases i <;>
    simp_all [exec, execNop, execKeygen, execBlockE, execBlockD, execCryptE, execCryptD, State.unlessBusy]

/-- While idle a datapath command is its issue. -/
theorem exec_idle (i : Instr) (cmd : Work) (s : State) (hb : s.busy = false) (hi : workOf i = some cmd) :
    exec i s = .next (s.issue cmd) := by
  cases i <;> simp only [workOf, Option.some.injEq, reduceCtorEq] at hi <;> subst hi <;>
    simp [exec, execKeygen, execBlockE, execBlockD, execCryptE, execCryptD, State.unlessBusy, hb]

theorem exec_nop_idle (s : State) (hb : s.busy = false) : exec .nop s = .next s.acknowledge.complete := by
  simp [exec, execNop, State.unlessBusy, hb]

theorem exec_clear (s : State) : exec .clear s = .next s.softReset := rfl

/-- What the write of a command's word can leave: the one case analysis every invariant uses. -/
theorem exec_cases (i : Instr) (s t : State) (h : exec i s = .next t) :
    (i = .clear ∧ t = s.softReset) ∨
    (i ≠ .clear ∧ s.busy = true ∧ t = s.noteOverrun) ∨
    (i = .nop ∧ s.busy = false ∧ t = s.acknowledge.complete) ∨
    (∃ cmd e, workOf i = some cmd ∧ s.busy = false ∧ s.checkIssue cmd = .error e ∧ t = s.raiseError e) ∨
    (∃ cmd n pv, workOf i = some cmd ∧ s.busy = false ∧ s.checkIssue cmd = .ok (n, pv) ∧
      t = { s.start cmd n pv with done := false, err := false, errCode := .none, outLen := 0#32 }) := by
  by_cases hi : i = .clear
  · subst hi; rw [exec_clear] at h; injection h with h; exact .inl ⟨rfl, h.symm⟩
  · cases hb : s.busy with
    | true => rw [exec_busy i s hb hi] at h; injection h with h; exact .inr (.inl ⟨hi, rfl, h.symm⟩)
    | false =>
      by_cases hn : i = .nop
      · subst hn; rw [exec_nop_idle s hb] at h; injection h with h
        exact .inr (.inr (.inl ⟨rfl, rfl, h.symm⟩))
      · obtain ⟨cmd, hc⟩ : ∃ cmd, workOf i = some cmd := by
          cases i <;> first | exact ⟨_, rfl⟩ | contradiction
        rw [exec_idle i cmd s hb hc] at h
        injection h with h
        cases hk : s.checkIssue cmd with
        | error e =>
          rw [issue_error s cmd e hk] at h
          exact .inr (.inr (.inr (.inl ⟨cmd, e, hc, rfl, hk, h.symm⟩)))
        | ok r =>
          obtain ⟨n, pv⟩ := r
          rw [issue_ok s cmd n pv hk] at h
          exact .inr (.inr (.inr (.inr ⟨cmd, n, pv, hc, rfl, hk, h.symm⟩)))

/-- What a successful check says (R192): the latches are those of R164 and they fit in MBUF. -/
theorem check_ok (cap : Nat) (cmd : Work) (keyLen : Byte) (msgLen : Nat) (pad : PadCfg) (n : Nat) (pv : Byte)
    (h : check cap cmd keyLen msgLen pad = .ok (n, pv)) :
    keyLen = 8#8 ∧ n = blockCount cmd pad msgLen ∧ pv = padValue cmd pad msgLen ∧ 8 * n ≤ cap ∧
    (cmd = .crypt .decrypt → msgLen % 8 = 0) ∧
    (cmd = .crypt .encrypt → pad.mode = .fill → msgLen % 8 = 0 ∨ pad.present = true) := by
  unfold check at h
  split at h; · cases h
  split at h; · cases h
  split at h; · cases h
  split at h; · cases h
  split at h; · cases h
  split at h; · cases h
  injection h with h
  injection h with h1 h2
  subst h1 h2
  refine ⟨by simp_all, rfl, rfl, by omega, ?_, ?_⟩
  · intro hc; by_contra hm; simp_all
  · intro hc hf
    by_contra hm
    simp_all

/-- A failing check names an error of R220 other than NONE. -/
theorem check_error (cap : Nat) (cmd : Work) (keyLen : Byte) (msgLen : Nat) (pad : PadCfg) (e : ErrCode)
    (h : check cap cmd keyLen msgLen pad = .error e) : e ≠ .none := by
  unfold check at h
  split at h; · injection h with h; subst h; decide
  split at h; · injection h with h; subst h; decide
  split at h; · injection h with h; subst h; decide
  split at h; · injection h with h; subst h; decide
  split at h; · injection h with h; subst h; decide
  split at h; · injection h with h; subst h; decide
  cases h

end Sys2Proof.Machine
end

