-- ==== Sys2Proof/Laws/Engine.lean ====
section
/-! SUPPORT. What one engine step can do, phase by phase, and what no engine step writes. -/

namespace Sys2Proof.Machine

section
variable (s : State)

/-! Which step a phase takes (R191). -/

theorem State.engineStep_idle (h : s.phase = .idle) : s.engineStep = s := by unfold State.engineStep; rw [h]
theorem State.engineStep_ks (h : s.phase = .ks) : s.engineStep = s.ksStep := by unfold State.engineStep; rw [h]
theorem State.engineStep_load (h : s.phase = .load) : s.engineStep = s.loadStep := by unfold State.engineStep; rw [h]
theorem State.engineStep_rnd (h : s.phase = .rnd) : s.engineStep = s.rndStep := by unfold State.engineStep; rw [h]
theorem State.engineStep_store (h : s.phase = .store) : s.engineStep = s.storeStep := by
  unfold State.engineStep; rw [h]

/-! The two ways the schedule and a block can end (R107, R146). -/

theorem State.endSchedule_finish (h : s.curOp = .keygen ∨ s.nblk = 0#32) :
    s.endSchedule = State.finish { s with ksValid := true, round := 0#5 } := by
  unfold State.endSchedule; rw [if_pos h]
theorem State.endSchedule_load (h : ¬(s.curOp = .keygen ∨ s.nblk = 0#32)) :
    s.endSchedule = { s with ksValid := true, round := 0#5, phase := .load } := by
  unfold State.endSchedule; rw [if_neg h]
theorem State.endStore_finish (h : s.blkIdx + 1#32 = s.nblk) :
    s.endStore = State.finish { s with blkIdx := s.blkIdx + 1#32 } := by
  unfold State.endStore; rw [if_pos h]
theorem State.endStore_load (h : s.blkIdx + 1#32 ≠ s.nblk) :
    s.endStore = { s with blkIdx := s.blkIdx + 1#32, phase := .load } := by
  unfold State.endStore; rw [if_neg h]

/-! `State.storeBlock`: `BLK` or MBUF, and nothing else (R146). -/

@[simp] theorem State.storeBlock_params (z : Block) : (s.storeBlock z).params = s.params := rfl
@[simp] theorem State.storeBlock_busy (z : Block) : (s.storeBlock z).busy = s.busy := rfl
@[simp] theorem State.storeBlock_done (z : Block) : (s.storeBlock z).done = s.done := rfl
@[simp] theorem State.storeBlock_err (z : Block) : (s.storeBlock z).err = s.err := rfl
@[simp] theorem State.storeBlock_ovr (z : Block) : (s.storeBlock z).ovr = s.ovr := rfl
@[simp] theorem State.storeBlock_errCode (z : Block) : (s.storeBlock z).errCode = s.errCode := rfl
@[simp] theorem State.storeBlock_padcfg (z : Block) : (s.storeBlock z).padcfg = s.padcfg := rfl
@[simp] theorem State.storeBlock_key (z : Block) : (s.storeBlock z).key = s.key := rfl
@[simp] theorem State.storeBlock_keyLen (z : Block) : (s.storeBlock z).keyLen = s.keyLen := rfl
@[simp] theorem State.storeBlock_msgLen (z : Block) : (s.storeBlock z).msgLen = s.msgLen := rfl
@[simp] theorem State.storeBlock_outLen (z : Block) : (s.storeBlock z).outLen = s.outLen := rfl
@[simp] theorem State.storeBlock_blkIdx (z : Block) : (s.storeBlock z).blkIdx = s.blkIdx := rfl
@[simp] theorem State.storeBlock_ksValid (z : Block) : (s.storeBlock z).ksValid = s.ksValid := rfl
@[simp] theorem State.storeBlock_sk (z : Block) : (s.storeBlock z).sk = s.sk := rfl
@[simp] theorem State.storeBlock_c (z : Block) : (s.storeBlock z).c = s.c := rfl
@[simp] theorem State.storeBlock_d (z : Block) : (s.storeBlock z).d = s.d := rfl
@[simp] theorem State.storeBlock_l (z : Block) : (s.storeBlock z).l = s.l := rfl
@[simp] theorem State.storeBlock_r (z : Block) : (s.storeBlock z).r = s.r := rfl
@[simp] theorem State.storeBlock_phase (z : Block) : (s.storeBlock z).phase = s.phase := rfl
@[simp] theorem State.storeBlock_round (z : Block) : (s.storeBlock z).round = s.round := rfl
@[simp] theorem State.storeBlock_curOp (z : Block) : (s.storeBlock z).curOp = s.curOp := rfl
@[simp] theorem State.storeBlock_curDir (z : Block) : (s.storeBlock z).curDir = s.curDir := rfl
@[simp] theorem State.storeBlock_nblk (z : Block) : (s.storeBlock z).nblk = s.nblk := rfl
@[simp] theorem State.storeBlock_padv (z : Block) : (s.storeBlock z).padv = s.padv := rfl
@[simp] theorem State.storeBlock_lenL (z : Block) : (s.storeBlock z).lenL = s.lenL := rfl
@[simp] theorem State.storeBlock_host (z : Block) : (s.storeBlock z).host = s.host := rfl
@[simp] theorem State.storeBlock_turns (z : Block) : (s.storeBlock z).turns = s.turns := rfl
@[simp] theorem State.storeBlock_readLog (z : Block) : (s.storeBlock z).readLog = s.readLog := rfl

/-! `State.endSchedule` and `State.endStore`: what they leave. -/

@[simp] theorem State.endSchedule_params : s.endSchedule.params = s.params := by
  unfold State.endSchedule; split <;> rfl
@[simp] theorem State.endSchedule_err : s.endSchedule.err = s.err := by
  unfold State.endSchedule; split <;> rfl
@[simp] theorem State.endSchedule_ovr : s.endSchedule.ovr = s.ovr := by
  unfold State.endSchedule; split <;> rfl
@[simp] theorem State.endSchedule_errCode : s.endSchedule.errCode = s.errCode := by
  unfold State.endSchedule; split <;> rfl
@[simp] theorem State.endSchedule_padcfg : s.endSchedule.padcfg = s.padcfg := by
  unfold State.endSchedule; split <;> rfl
@[simp] theorem State.endSchedule_key : s.endSchedule.key = s.key := by
  unfold State.endSchedule; split <;> rfl
@[simp] theorem State.endSchedule_keyLen : s.endSchedule.keyLen = s.keyLen := by
  unfold State.endSchedule; split <;> rfl
@[simp] theorem State.endSchedule_msgLen : s.endSchedule.msgLen = s.msgLen := by
  unfold State.endSchedule; split <;> rfl
@[simp] theorem State.endSchedule_blk : s.endSchedule.blk = s.blk := by
  unfold State.endSchedule; split <;> rfl
@[simp] theorem State.endSchedule_blkIdx : s.endSchedule.blkIdx = s.blkIdx := by
  unfold State.endSchedule; split <;> rfl
@[simp] theorem State.endSchedule_sk : s.endSchedule.sk = s.sk := by
  unfold State.endSchedule; split <;> rfl
@[simp] theorem State.endSchedule_c : s.endSchedule.c = s.c := by
  unfold State.endSchedule; split <;> rfl
@[simp] theorem State.endSchedule_d : s.endSchedule.d = s.d := by
  unfold State.endSchedule; split <;> rfl
@[simp] theorem State.endSchedule_l : s.endSchedule.l = s.l := by
  unfold State.endSchedule; split <;> rfl
@[simp] theorem State.endSchedule_r : s.endSchedule.r = s.r := by
  unfold State.endSchedule; split <;> rfl
@[simp] theorem State.endSchedule_curOp : s.endSchedule.curOp = s.curOp := by
  unfold State.endSchedule; split <;> rfl
@[simp] theorem State.endSchedule_curDir : s.endSchedule.curDir = s.curDir := by
  unfold State.endSchedule; split <;> rfl
@[simp] theorem State.endSchedule_nblk : s.endSchedule.nblk = s.nblk := by
  unfold State.endSchedule; split <;> rfl
@[simp] theorem State.endSchedule_padv : s.endSchedule.padv = s.padv := by
  unfold State.endSchedule; split <;> rfl
@[simp] theorem State.endSchedule_lenL : s.endSchedule.lenL = s.lenL := by
  unfold State.endSchedule; split <;> rfl
@[simp] theorem State.endSchedule_mbuf : s.endSchedule.mbuf = s.mbuf := by
  unfold State.endSchedule; split <;> rfl
@[simp] theorem State.endSchedule_host : s.endSchedule.host = s.host := by
  unfold State.endSchedule; split <;> rfl
@[simp] theorem State.endSchedule_turns : s.endSchedule.turns = s.turns := by
  unfold State.endSchedule; split <;> rfl
@[simp] theorem State.endSchedule_readLog : s.endSchedule.readLog = s.readLog := by
  unfold State.endSchedule; split <;> rfl
@[simp] theorem State.endStore_params : s.endStore.params = s.params := by
  unfold State.endStore; split <;> rfl
@[simp] theorem State.endStore_err : s.endStore.err = s.err := by
  unfold State.endStore; split <;> rfl
@[simp] theorem State.endStore_ovr : s.endStore.ovr = s.ovr := by
  unfold State.endStore; split <;> rfl
@[simp] theorem State.endStore_errCode : s.endStore.errCode = s.errCode := by
  unfold State.endStore; split <;> rfl
@[simp] theorem State.endStore_padcfg : s.endStore.padcfg = s.padcfg := by
  unfold State.endStore; split <;> rfl
@[simp] theorem State.endStore_key : s.endStore.key = s.key := by
  unfold State.endStore; split <;> rfl
@[simp] theorem State.endStore_keyLen : s.endStore.keyLen = s.keyLen := by
  unfold State.endStore; split <;> rfl
@[simp] theorem State.endStore_msgLen : s.endStore.msgLen = s.msgLen := by
  unfold State.endStore; split <;> rfl
@[simp] theorem State.endStore_blk : s.endStore.blk = s.blk := by
  unfold State.endStore; split <;> rfl
@[simp] theorem State.endStore_ksValid : s.endStore.ksValid = s.ksValid := by
  unfold State.endStore; split <;> rfl
@[simp] theorem State.endStore_sk : s.endStore.sk = s.sk := by
  unfold State.endStore; split <;> rfl
@[simp] theorem State.endStore_c : s.endStore.c = s.c := by
  unfold State.endStore; split <;> rfl
@[simp] theorem State.endStore_d : s.endStore.d = s.d := by
  unfold State.endStore; split <;> rfl
@[simp] theorem State.endStore_l : s.endStore.l = s.l := by
  unfold State.endStore; split <;> rfl
@[simp] theorem State.endStore_r : s.endStore.r = s.r := by
  unfold State.endStore; split <;> rfl
@[simp] theorem State.endStore_curOp : s.endStore.curOp = s.curOp := by
  unfold State.endStore; split <;> rfl
@[simp] theorem State.endStore_curDir : s.endStore.curDir = s.curDir := by
  unfold State.endStore; split <;> rfl
@[simp] theorem State.endStore_nblk : s.endStore.nblk = s.nblk := by
  unfold State.endStore; split <;> rfl
@[simp] theorem State.endStore_padv : s.endStore.padv = s.padv := by
  unfold State.endStore; split <;> rfl
@[simp] theorem State.endStore_lenL : s.endStore.lenL = s.lenL := by
  unfold State.endStore; split <;> rfl
@[simp] theorem State.endStore_mbuf : s.endStore.mbuf = s.mbuf := by
  unfold State.endStore; split <;> rfl
@[simp] theorem State.endStore_host : s.endStore.host = s.host := by
  unfold State.endStore; split <;> rfl
@[simp] theorem State.endStore_turns : s.endStore.turns = s.turns := by
  unfold State.endStore; split <;> rfl
@[simp] theorem State.endStore_readLog : s.endStore.readLog = s.readLog := by
  unfold State.endStore; split <;> rfl
@[simp] theorem State.endSchedule_ksValid : s.endSchedule.ksValid = true := by
  unfold State.endSchedule; split <;> rfl
@[simp] theorem State.endStore_blkIdx : s.endStore.blkIdx = s.blkIdx + 1#32 := by
  unfold State.endStore; split <;> rfl

/-! The fields no engine step writes. -/

@[simp] theorem State.engineStep_params : s.engineStep.params = s.params := by
  unfold State.engineStep State.ksStep State.rndStep State.storeStep
  split <;> simp
  split <;> simp
@[simp] theorem State.engineStep_key : s.engineStep.key = s.key := by
  unfold State.engineStep State.ksStep State.rndStep State.storeStep
  split <;> simp
  split <;> simp
@[simp] theorem State.engineStep_keyLen : s.engineStep.keyLen = s.keyLen := by
  unfold State.engineStep State.ksStep State.rndStep State.storeStep
  split <;> simp
  split <;> simp
@[simp] theorem State.engineStep_msgLen : s.engineStep.msgLen = s.msgLen := by
  unfold State.engineStep State.ksStep State.rndStep State.storeStep
  split <;> simp
  split <;> simp
@[simp] theorem State.engineStep_padcfg : s.engineStep.padcfg = s.padcfg := by
  unfold State.engineStep State.ksStep State.rndStep State.storeStep
  split <;> simp
  split <;> simp
@[simp] theorem State.engineStep_err : s.engineStep.err = s.err := by
  unfold State.engineStep State.ksStep State.rndStep State.storeStep
  split <;> simp
  split <;> simp
@[simp] theorem State.engineStep_errCode : s.engineStep.errCode = s.errCode := by
  unfold State.engineStep State.ksStep State.rndStep State.storeStep
  split <;> simp
  split <;> simp
@[simp] theorem State.engineStep_ovr : s.engineStep.ovr = s.ovr := by
  unfold State.engineStep State.ksStep State.rndStep State.storeStep
  split <;> simp
  split <;> simp
@[simp] theorem State.engineStep_curOp : s.engineStep.curOp = s.curOp := by
  unfold State.engineStep State.ksStep State.rndStep State.storeStep
  split <;> simp
  split <;> simp
@[simp] theorem State.engineStep_curDir : s.engineStep.curDir = s.curDir := by
  unfold State.engineStep State.ksStep State.rndStep State.storeStep
  split <;> simp
  split <;> simp
@[simp] theorem State.engineStep_nblk : s.engineStep.nblk = s.nblk := by
  unfold State.engineStep State.ksStep State.rndStep State.storeStep
  split <;> simp
  split <;> simp
@[simp] theorem State.engineStep_padv : s.engineStep.padv = s.padv := by
  unfold State.engineStep State.ksStep State.rndStep State.storeStep
  split <;> simp
  split <;> simp
@[simp] theorem State.engineStep_lenL : s.engineStep.lenL = s.lenL := by
  unfold State.engineStep State.ksStep State.rndStep State.storeStep
  split <;> simp
  split <;> simp
@[simp] theorem State.engineStep_host : s.engineStep.host = s.host := by
  unfold State.engineStep State.ksStep State.rndStep State.storeStep
  split <;> simp
  split <;> simp
@[simp] theorem State.engineStep_turns : s.engineStep.turns = s.turns := by
  unfold State.engineStep State.ksStep State.rndStep State.storeStep
  split <;> simp
  split <;> simp
@[simp] theorem State.engineStep_readLog : s.engineStep.readLog = s.readLog := by
  unfold State.engineStep State.ksStep State.rndStep State.storeStep
  split <;> simp
  split <;> simp

end

/-! The subkey file (R41). -/

theorem subkeyEntry_set_same (v : Vector Subkey 16) (i : Nat) (x : Subkey) (h : 1 ≤ i) (h' : i ≤ 16) :
    subkeyEntry (v.setIfInBounds (i - 1) x).toList i = x := by
  unfold subkeyEntry
  rw [List.getD_eq_getElem?_getD]
  simp [Vector.toList]
  rw [List.getElem?_set]
  have : i - 1 < 16 := by omega
  simp [this]

theorem subkeyEntry_set_other (v : Vector Subkey 16) (i j : Nat) (x : Subkey) (hi : 1 ≤ i) (hj : 1 ≤ j) (h : j ≠ i) :
    subkeyEntry (v.setIfInBounds (i - 1) x).toList j = subkeyEntry v.toList j := by
  unfold subkeyEntry
  rw [List.getD_eq_getElem?_getD, List.getD_eq_getElem?_getD]
  have : i - 1 ≠ j - 1 := by omega
  simp [Vector.toList]
  rw [List.getElem?_set_ne (by omega)]
  simp

/-- Entry `i` of a schedule is the subkey of its round (R100). -/
theorem subkeyEntry_scheduleOf (cd : KeyHalf × KeyHalf) (i : Nat) (h : 1 ≤ i) (h' : i ≤ 16) :
    subkeyEntry (scheduleOf cd) i = subkeyOf (halvesAfter i cd) := by
  unfold subkeyEntry scheduleOf
  rw [List.getD_eq_getElem?_getD, List.getElem?_map, List.getElem?_range (by omega)]
  have : i - 1 + 1 = i := by omega
  simp [this]

/-- Every shift count is below 28 (R104). -/
theorem shiftCount_lt (i : Nat) : shiftCount i < 28 := by
  unfold shiftCount
  rcases Nat.lt_or_ge (i - 1) 16 with h | h
  · have : ∀ j : Fin 16, Tables.shifts.getD j.val 0 < 28 := by decide
    exact this ⟨i - 1, h⟩
  · rw [List.getD_eq_getElem?_getD, List.getElem?_eq_none (by simpa [Tables.shifts] using h)]
    decide

end Sys2Proof.Machine
end

