-- ==== Sys2Proof/Laws/Functions.lean ====
section
/-! SUPPORT. The algebra of the functions the engine computes: permutations, rotations, the key schedule, one round. -/

namespace Sys2Proof.Machine

/-- A permutation undoes another whose table it inverts (R10). -/
theorem permute_inverse {n m : Nat} (t u : List Nat) (v : BitVec n) (ht : t.length = m) (hu : u.length = n)
    (h : ∀ i (hi : i < u.length), t[u[i]]? = some i) (hr : ∀ x ∈ u, x < m) : permute n u (permute m t v) = v := by
  apply eq_of_desBits
  intro i hi
  rw [permute_getMsbD u _ hu i (by omega)]
  have h1 := h i (by omega)
  have h2 := hr u[i] (List.getElem_mem _)
  rw [permute_getMsbD t v ht _ (by omega)]
  rw [List.getElem?_eq_getElem (by omega)] at h1
  injection h1 with h1
  rw [h1]

/-- A permutation commutes with the complement (R10). -/
theorem permute_not {n m : Nat} (t : List Nat) (v : BitVec n) (h : t.length = m) (hv : ∀ x ∈ t, x < n) :
    permute m t (~~~v) = ~~~(permute m t v) := by
  apply eq_of_desBits
  intro i hi
  rw [permute_getMsbD t _ h i (by omega), BitVec.getMsbD_not, BitVec.getMsbD_not, permute_getMsbD t _ h i (by omega)]
  have := hv _ (List.getElem_mem (by omega : i < t.length))
  simp [this, hi]

/-- A rotation commutes with the complement (R11). -/
theorem rotl28_not (v : KeyHalf) (k : Nat) (h : k < 28) : rotl28 (~~~v) k = ~~~(rotl28 v k) := by
  apply eq_of_desBits
  intro i hi
  rw [rotl28_getMsbD _ _ _ h hi, BitVec.getMsbD_not, BitVec.getMsbD_not, rotl28_getMsbD _ _ _ h hi]
  have : (k + i) % 28 < 28 := Nat.mod_lt _ (by decide)
  simp [this, hi]

/-- Two rotations add up around the ring of 28 (R11). -/
theorem rotl28_rotl28_mod (v : KeyHalf) (a b : Nat) (ha : a < 28) (hb : b < 28) :
    rotl28 (rotl28 v a) b = rotl28 v ((a + b) % 28) := by
  apply eq_of_desBits
  intro i hi
  rw [rotl28_getMsbD _ b i hb hi, rotl28_getMsbD _ a _ ha (Nat.mod_lt _ (by decide)),
    rotl28_getMsbD _ _ _ (Nat.mod_lt _ (by decide)) hi]
  congr 1; omega

/-- One more round of the schedule. -/
theorem halvesAfter_succ (n k : Nat) (c d : KeyHalf) (hk : k < 28)
    (h : halvesAfter n (c, d) = (rotl28 c k, rotl28 d k)) :
    halvesAfter (n + 1) (c, d) =
      (rotl28 c ((k + shiftCount (n + 1)) % 28), rotl28 d ((k + shiftCount (n + 1)) % 28)) := by
  rw [show halvesAfter (n + 1) (c, d) = rotateHalves (n + 1) (halvesAfter n (c, d)) from rfl, h]
  simp only [rotateHalves]
  rw [rotl28_rotl28_mod _ _ _ hk (shiftCount_lt _), rotl28_rotl28_mod _ _ _ hk (shiftCount_lt _)]

/-- The sixteen shift counts add up to 28, so the halves return (R111). -/
theorem halvesAfter_full (cd : KeyHalf × KeyHalf) : halvesAfter 16 cd = cd := by
  obtain ⟨c, d⟩ := cd
  have zero : ∀ v : KeyHalf, rotl28 v 0 = v := by
    intro v
    apply eq_of_desBits
    intro i hi
    rw [rotl28_getMsbD _ _ _ (by omega) hi]
    congr 1; omega
  have h0 : halvesAfter 0 (c, d) = (rotl28 c 0, rotl28 d 0) := by rw [zero, zero]; rfl
  have h1 := halvesAfter_succ 0 0 c d (by decide) h0
  have h2 := halvesAfter_succ 1 1 c d (by decide) h1
  have h3 := halvesAfter_succ 2 2 c d (by decide) h2
  have h4 := halvesAfter_succ 3 4 c d (by decide) h3
  have h5 := halvesAfter_succ 4 6 c d (by decide) h4
  have h6 := halvesAfter_succ 5 8 c d (by decide) h5
  have h7 := halvesAfter_succ 6 10 c d (by decide) h6
  have h8 := halvesAfter_succ 7 12 c d (by decide) h7
  have h9 := halvesAfter_succ 8 14 c d (by decide) h8
  have h10 := halvesAfter_succ 9 15 c d (by decide) h9
  have h11 := halvesAfter_succ 10 17 c d (by decide) h10
  have h12 := halvesAfter_succ 11 19 c d (by decide) h11
  have h13 := halvesAfter_succ 12 21 c d (by decide) h12
  have h14 := halvesAfter_succ 13 23 c d (by decide) h13
  have h15 := halvesAfter_succ 14 25 c d (by decide) h14
  have h16 := halvesAfter_succ 15 27 c d (by decide) h15
  rw [h16, show (27 + shiftCount (15 + 1)) % 28 = 0 by decide, zero, zero]

/-- A subkey file whose entries are those of a schedule is that schedule (R41). -/
theorem eq_scheduleOf (v : Vector Subkey 16) (cd : KeyHalf × KeyHalf)
    (h : ∀ i, 1 ≤ i → i ≤ 16 → subkeyEntry v.toList i = subkeyOf (halvesAfter i cd)) : v.toList = scheduleOf cd := by
  apply List.ext_getElem
  · simp [scheduleOf]
  · intro n h1 h2
    have hn : n < 16 := by simpa using h1
    have := h (n + 1) (by omega) (by omega)
    unfold subkeyEntry at this
    rw [List.getD_eq_getElem?_getD, show n + 1 - 1 = n by omega, List.getElem?_eq_getElem h1] at this
    simp only [Option.getD_some] at this
    rw [this]; simp [scheduleOf]

/-- One more round of the block transform (R140). -/
theorem roundsAfter_succ (sks : List Subkey) (dir : Direction) (n : Nat) (lr : Half × Half) :
    roundsAfter sks dir (n + 1) lr = feistelRound (roundsAfter sks dir n lr) (subkeyFor sks dir (n + 1)) := rfl

/-- A round undoes itself between half swaps (R126). -/
theorem feistelRound_swap (lr : Half × Half) (k : Subkey) : feistelRound (feistelRound lr k).swap k = lr.swap := by
  obtain ⟨l, r⟩ := lr
  simp only [feistelRound, Prod.swap]
  rw [← BitVec.xor_assoc, BitVec.xor_self, BitVec.zero_xor]

end Sys2Proof.Machine
end

