-- ==== Sys2Proof/Laws/PerInstr.lean ====
section
/-! SUPPORT. Statements about every command, one lemma per constructor. -/

namespace Sys2Proof.Laws.LegalWord

/-- The word of a command keeps R80's field rules: `RSV = 0`, a defined `OP`, and `DIR = 1` only for BLOCK and CRYPT. -/
def Statement (i : Instr) : Prop := wordLegal (encode i) = true ∧ opField (encode i) = i.op

theorem nop : Statement .nop := by unfold Statement; decide
theorem keygen : Statement .keygen := by unfold Statement; decide
theorem blockE : Statement .blockE := by unfold Statement; decide
theorem blockD : Statement .blockD := by unfold Statement; decide
theorem cryptE : Statement .cryptE := by unfold Statement; decide
theorem cryptD : Statement .cryptD := by unfold Statement; decide
theorem clear : Statement .clear := by unfold Statement; decide

end Sys2Proof.Laws.LegalWord
end

