-- ==== Sys2Proof/Laws/Step.lean ====
section
/-! SUPPORT. What one host access, one host operation and one step can do, said once. -/

namespace Sys2Proof.Machine

open Sys2Proof.Safety

/-- What a taken write can leave (R225). -/
inductive WriteEffect (s : State) (t : Access) : State → Prop
  /-- Ignored while busy (R257); the write is no CLEAR. -/
  | ignored (hb : s.busy = true) (hc : isClearWrite t = false) : WriteEffect s t s.noteOverrun
  /-- CLEAR (R204). -/
  | cleared (hc : isClearWrite t = true) : WriteEffect s t s.softReset
  /-- NOP (R200). -/
  | completed (hb : s.busy = false) : WriteEffect s t s.acknowledge.complete
  /-- A failing issue (R222). -/
  | failed (e : ErrCode) (hb : s.busy = false) (he : e = .illegalCommand ∨ ∃ cmd, s.checkIssue cmd = .error e) :
      WriteEffect s t (s.raiseError e)
  /-- A successful issue (R193). -/
  | started (cmd : Work) (n : Nat) (pv : Byte) (hb : s.busy = false) (hk : s.checkIssue cmd = .ok (n, pv)) :
      WriteEffect s t { s.start cmd n pv with done := false, err := false, errCode := .none, outLen := 0#32 }
  /-- A register or MBUF write (R225 case 4). -/
  | stored (g : Target) (hb : s.busy = false) (hg : g ≠ .register .cmd)
      (ht : targetOf s.params.msgBytes t.off.toNat t.width = some g) : WriteEffect s t (s.writeTarget t.data g)

/-- The CLEAR word is the one that decodes to CLEAR. -/
theorem decode_eq_clear (w : Word) : decode w = .ok .clear ↔ w = 0x0000000F#32 := by
  unfold decode
  repeat' split
  all_goals simp_all

theorem encode_clear : encode .clear = 0x0000000F#32 := by decide

/-- A write that reaches `CMD` is the presentation of its data. -/
theorem eq_command_of_target (cap : Nat) (t : Access) (hw : t.rw = .write)
    (h : targetOf cap t.off.toNat t.width = some (.register .cmd)) : t = Access.command t.data := by
  unfold targetOf at h
  split at h
  · split at h
    · rename_i h1 h2
      injection h with h
      injection h with h
      have ho := (regAt_eq_cmd _).mp h
      obtain ⟨rw_, off, width, data⟩ := t
      simp only at hw ho h2
      have : off = 0x004#32 := BitVec.eq_of_toNat_eq (by simpa using ho)
      simp [Access.command, Access.wr32, hw, this, h2.1]
    · cases h
  · simp only [Option.ite_none_right_eq_some] at h
    obtain ⟨-, h⟩ := h
    cases h

theorem commandWrite_effect (w : Word) (s u : State) (h : commandWrite w s = .next u) :
    WriteEffect s (Access.command w) u := by
  unfold commandWrite at h
  split at h
  · rename_i i hd
    rcases exec_cases i s u h with ⟨rfl, rfl⟩ | ⟨hi, hb, rfl⟩ | ⟨rfl, hb, rfl⟩ | ⟨cmd, e, -, hb, hk, rfl⟩ |
      ⟨cmd, n, pv, -, hb, hk, rfl⟩
    · refine .cleared ?_
      rw [(decode_eq_clear w).mp hd, isClearWrite, encode_clear]; decide
    · refine .ignored hb ?_
      by_contra hc
      simp only [isClearWrite, encode_clear, Bool.not_eq_false, beq_iff_eq] at hc
      have : w = 0x0000000F#32 := congrArg Access.data hc
      rw [(decode_eq_clear w).mpr this] at hd
      injection hd with hd
      exact hi hd.symm
    · exact .completed hb
    · exact .failed e hb (.inr ⟨cmd, hk⟩)
    · exact .started cmd n pv hb hk
  · rename_i r hd
    injection h with h
    subst h
    unfold State.unlessBusy
    cases hb : s.busy with
    | true =>
      refine .ignored hb ?_
      by_contra hc
      simp only [isClearWrite, encode_clear, Bool.not_eq_false, beq_iff_eq] at hc
      have : w = 0x0000000F#32 := congrArg Access.data hc
      rw [(decode_eq_clear w).mpr this] at hd
      cases hd
    | false => exact .failed _ hb (.inl rfl)

/-- One host access that is taken: a read, or one of the effects of a write. -/
theorem busAccess_effect (t : Access) (s u : State) (h : busAccess t s = .next u) :
    t.wf s.params = true ∧ ((t.rw = .read ∧ ∃ v, u = s.recordRead v) ∨ (t.rw = .write ∧ WriteEffect s t u)) := by
  refine ⟨?_, ?_⟩
  · rcases busAccess_cases t s with ⟨-, h'⟩ | ⟨h', -⟩
    · rw [h'] at h; cases h
    · exact h'
  · unfold busAccess at h
    split at h
    · cases h
    · rename_i g hg
      cases hr : t.rw with
      | read =>
        rw [hr] at h; injection h with h
        exact .inl ⟨rfl, _, h.symm⟩
      | write =>
        rw [hr] at h
        refine .inr ⟨rfl, ?_⟩
        by_cases hc : g = .register .cmd
        · subst hc
          have := eq_command_of_target _ t hr hg
          have e := commandWrite_effect t.data s u h
          rwa [← this] at e
        · cases hb : s.busy with
          | true =>
            simp only [hostWrite_busy g t.data s hc hb] at h
            injection h with h
            subst h
            refine .ignored hb ?_
            by_contra hcl
            simp only [isClearWrite, Bool.not_eq_false, beq_iff_eq] at hcl
            subst hcl
            have : targetOf s.params.msgBytes 4 4 = some (.register .cmd) := rfl
            have e : targetOf s.params.msgBytes (Access.command (encode .clear)).off.toNat
              (Access.command (encode .clear)).width = some (.register .cmd) := this
            rw [e] at hg
            injection hg with hg
            exact hc hg.symm
          | false =>
            simp only [hostWrite_idle g t.data s hc hb] at h
            injection h with h
            subst h
            exact .stored g hb hc hg

/-- What one host operation can do. -/
theorem hostMove_effect (s u : State) (h : hostMove s = .next u) :
    (s.host = [] ∧ u = s) ∨
    (∃ t rest, s.host = .access t :: rest ∧ busAccess t { s with host := rest } = .next u) ∨
    (∃ host' v, u = ({ s with host := host' } : State).recordRead v ∧ (noClear s.host = true → noClear host' = true)) := by
  unfold hostMove at h
  split at h
  · injection h with h; exact .inl ⟨by assumption, h.symm⟩
  · rename_i t rest he; exact .inr (.inl ⟨t, rest, he, h⟩)
  · rename_i rest he
    injection h with h
    refine .inr (.inr ⟨_, _, h.symm, ?_⟩)
    intro hn
    split
    · exact hn
    · rw [he] at hn; simpa [noClear] using hn
  · rename_i rest he
    injection h with h
    refine .inr (.inr ⟨_, _, h.symm, ?_⟩)
    intro hn
    rw [he] at hn
    simp only [noClear, List.all_cons, Bool.and_eq_true] at hn ⊢
    refine ⟨?_, hn.2⟩
    simp [isClearWrite, Access.command, Access.wr32]
  · rename_i n rest he
    injection h with h
    refine .inr (.inr ⟨_, _, h.symm, ?_⟩)
    intro hn
    rw [he] at hn
    simp only [noClear, List.all_cons, Bool.true_and] at hn ⊢
    split
    · rw [List.all_eq_true] at hn ⊢
      exact fun x hx => hn x (List.mem_of_mem_drop hx)
    · exact hn

/-- What one step can do: hold while idle, one host operation, or one engine step. -/
theorem step_effect (s u : State) (h : step s = .next u) :
    (s.busy = false ∧ s.host = [] ∧ u = s) ∨
    (s.host ≠ [] ∧ hostMove s.takeTurn = .next u) ∨
    (s.busy = true ∧ u = s.takeTurn.engineStep) := by
  unfold step transition at h
  split at h
  · rename_i hn
    injection h with h
    unfold nextAgent at hn
    split at hn <;> simp_all
  · rename_i hn
    refine .inr (.inl ⟨?_, h⟩)
    unfold nextAgent at hn
    split at hn <;> simp_all
  · rename_i hn
    injection h with h
    refine .inr (.inr ⟨?_, h.symm⟩)
    unfold nextAgent at hn
    split at hn <;> simp_all

/-- A run whose first step answers a state goes on from it. -/
theorem run_next (n : Nat) (s t : State) (h : step s = .next t) :
    Host.Core.run Sys2Proof.core (n + 1) s = Host.Core.run Sys2Proof.core n t := by
  have : Sys2Proof.core.step s = .next t := h
  simp only [Host.Core.run, this]

end Sys2Proof.Machine
end

