-- ==== Sys2Proof/Laws/Run.lean ====
section
/-! SUPPORT. Runs of the engine alone: a host with nothing to do, the sixteen KS steps, and the eighteen steps of a
block. -/

namespace Sys2Proof.Machine

/-- The host has nothing to do, and `BUSY` says that a command runs (R24). -/
def Quiet (s : State) : Prop := s.host = [] ∧ (s.busy = true ↔ s.phase ≠ .idle)

theorem Quiet.engineStep (s : State) (h : Quiet s) : Quiet s.engineStep := by
  obtain ⟨h1, h2⟩ := h
  refine ⟨by simpa using h1, ?_⟩
  cases hp : s.phase with
  | idle => rw [State.engineStep_idle s hp]; exact h2
  | ks =>
    have hb := h2.mpr (by simp [hp])
    rw [State.engineStep_ks s hp]
    simp only [State.ksStep]
    split
    · simp only [State.endSchedule]; split <;> simp [hb]
    · simp [hb, hp]
  | load =>
    have hb := h2.mpr (by simp [hp])
    rw [State.engineStep_load s hp]; simp [hb]
  | rnd =>
    have hb := h2.mpr (by simp [hp])
    rw [State.engineStep_rnd s hp]
    simp only [State.rndStep, hp]
    split <;> simp [hb]
  | store =>
    have hb := h2.mpr (by simp [hp])
    rw [State.engineStep_store s hp]
    simp only [State.storeStep]
    by_cases hx : s.blkIdx + 1#32 = s.nblk
    · rw [State.endStore_finish _ (by simpa using hx)]; simp
    · rw [State.endStore_load _ (by simpa using hx)]; simp [hb]

theorem Quiet.step (s : State) (h : Quiet s) : step s = .next s.engineStep := by
  obtain ⟨h1, h2⟩ := h
  cases hb : s.busy with
  | false =>
    have : s.phase = .idle := by
      by_contra hc
      rw [hb] at h2
      exact absurd (h2.mpr hc) (by simp)
    simp [Sys2Proof.Machine.step, transition, nextAgent, h1, hb, State.engineStep, this]
  | true => simp [Sys2Proof.Machine.step, transition, nextAgent, h1, hb, State.takeTurn]

/-- With nothing for the host to do, a run is the engine's steps. -/
theorem Quiet.run (n : Nat) (s : State) (h : Quiet s) :
    Host.Core.run Sys2Proof.core n s = .next (Nat.iterate State.engineStep n s : State) := by
  induction n generalizing s with
  | zero => rfl
  | succ n ih =>
    rw [run_next _ _ _ (Quiet.step s h)]
    exact ih _ (Quiet.engineStep s h)

/-- The subkey file after `j` KS steps from halves `cd`. -/
def filledTo (cd : KeyHalf × KeyHalf) : Nat → Vector Subkey 16 → Vector Subkey 16
  | 0, v => v
  | j + 1, v => (filledTo cd j v).setIfInBounds j (subkeyOf (halvesAfter (j + 1) cd))

theorem filledTo_entry (cd : KeyHalf × KeyHalf) (v : Vector Subkey 16) (j : Nat) (hj : j ≤ 16) (i : Nat) (h1 : 1 ≤ i)
    (h2 : i ≤ j) : subkeyEntry (filledTo cd j v).toList i = subkeyOf (halvesAfter i cd) := by
  induction j with
  | zero => omega
  | succ j ih =>
    rw [show filledTo cd (j + 1) v =
      (filledTo cd j v).setIfInBounds (j + 1 - 1) (subkeyOf (halvesAfter (j + 1) cd)) from rfl]
    by_cases h : i = j + 1
    · subst h; exact subkeyEntry_set_same _ _ _ (by omega) hj
    · rw [subkeyEntry_set_other _ _ _ _ (by omega) h1 h]
      exact ih (by omega) (by omega)

theorem filledTo_full (cd : KeyHalf × KeyHalf) (v : Vector Subkey 16) : (filledTo cd 16 v).toList = scheduleOf cd :=
  eq_scheduleOf _ _ fun i h1 h2 => filledTo_entry cd v 16 le_rfl i h1 h2

/-- The state after `j` KS steps. -/
def State.afterKs (s : State) (j : Nat) : State :=
  { s with
    round := BitVec.ofNat 5 j
    c := (halvesAfter j (s.c, s.d)).1
    d := (halvesAfter j (s.c, s.d)).2
    sk := filledTo (s.c, s.d) j s.sk }

theorem afterKs_step (s : State) (hp : s.phase = .ks) (j : Nat) (hj : j < 16) :
    (s.afterKs j).engineStep = if j = 15 then (s.afterKs 16).endSchedule else s.afterKs (j + 1) := by
  rw [State.engineStep_ks _ (by exact hp)]
  simp only [State.ksStep]
  have e : (s.afterKs j).round + 1#5 = BitVec.ofNat 5 (j + 1) := by
    apply BitVec.eq_of_toNat_eq; simp [State.afterKs]
  have e2 : (BitVec.ofNat 5 (j + 1)).toNat = j + 1 := by simp; omega
  have e3 : BitVec.ofNat 5 (j + 1) = 16#5 ↔ j = 15 := by rw [← BitVec.toNat_inj, e2]; simp
  rw [e, e2]
  simp only [e3]
  have h : State.setSubkey { s.afterKs j with
      round := BitVec.ofNat 5 (j + 1)
      c := (rotateHalves (j + 1) ((s.afterKs j).c, (s.afterKs j).d)).1
      d := (rotateHalves (j + 1) ((s.afterKs j).c, (s.afterKs j).d)).2 } (j + 1)
      (subkeyOf (rotateHalves (j + 1) ((s.afterKs j).c, (s.afterKs j).d))) = s.afterKs (j + 1) := by
    simp [State.setSubkey, State.afterKs, filledTo, halvesAfter]
  rw [h]
  split
  · rename_i hl; subst hl; rfl
  · rfl

theorem iterate_ks (s : State) (hp : s.phase = .ks) (hr : s.round = 0#5) (j : Nat) (hj : j < 16) :
    Nat.iterate State.engineStep j s = s.afterKs j := by
  induction j with
  | zero => simp [State.afterKs, halvesAfter, filledTo, ← hr]
  | succ j ih => rw [Function.iterate_succ_apply', ih (by omega), afterKs_step s hp j (by omega), if_neg (by omega)]

/-- The sixteen KS steps of a command (R107), up to how it goes on. -/
theorem iterate_ks_full (s : State) (hp : s.phase = .ks) (hr : s.round = 0#5) :
    Nat.iterate State.engineStep 16 s = State.endSchedule { s with round := 16#5, sk := filledTo (s.c, s.d) 16 s.sk } := by
  rw [Function.iterate_succ_apply', iterate_ks s hp hr 15 (by omega), afterKs_step s hp 15 (by omega), if_pos rfl]
  unfold State.afterKs
  rw [halvesAfter_full]

/-- The state after a LOAD step and `j` RND steps. -/
def State.afterRounds (s : State) (j : Nat) : State :=
  { s with
    round := BitVec.ofNat 5 j
    l := (roundsAfter s.sk.toList s.curDir j (blockHalves s.loadOperand)).1
    r := (roundsAfter s.sk.toList s.curDir j (blockHalves s.loadOperand)).2
    phase := if j = 16 then .store else .rnd }

theorem afterRounds_step (s : State) (j : Nat) (hj : j < 16) :
    (s.afterRounds j).engineStep = s.afterRounds (j + 1) := by
  have hp : (s.afterRounds j).phase = .rnd := by simp [State.afterRounds]; omega
  rw [State.engineStep_rnd _ hp]
  simp only [State.rndStep]
  have e : (s.afterRounds j).round + 1#5 = BitVec.ofNat 5 (j + 1) := by
    apply BitVec.eq_of_toNat_eq; simp [State.afterRounds]
  have e2 : (BitVec.ofNat 5 (j + 1)).toNat = j + 1 := by simp; omega
  have e3 : BitVec.ofNat 5 (j + 1) = 16#5 ↔ j + 1 = 16 := by rw [← BitVec.toNat_inj, e2]; simp
  rw [e, e2]
  simp only [e3, hp]
  rfl

theorem iterate_rounds (s : State) (j : Nat) (hj : j ≤ 16) :
    Nat.iterate State.engineStep j (s.afterRounds 0) = s.afterRounds j := by
  induction j with
  | zero => rfl
  | succ j ih => rw [Function.iterate_succ_apply', ih (by omega), afterRounds_step s j (by omega)]

/-- The eighteen steps of a block (R148): LOAD, sixteen rounds, STORE. -/
theorem iterate_block (s : State) (hp : s.phase = .load) :
    Nat.iterate State.engineStep 18 s = (s.afterRounds 16).storeStep := by
  rw [Function.iterate_succ_apply, State.engineStep_load s hp,
    show s.loadStep = s.afterRounds 0 from rfl, Function.iterate_succ_apply', iterate_rounds s 16 le_rfl,
    State.engineStep_store _ rfl]

end Sys2Proof.Machine
end

