-- ==== Sys2Proof/Tests/Slice0.lean ====
section
/-! SUPPORT. Tests against the spec's vectors (spec/95_test_vectors.md, cited by row), the ill-formed terms the checks of
WellFormed refuse, and for each statement with hypotheses a state and operands that meet them. -/

namespace Sys2Proof.Tests

open Sys2Proof Sys2Proof.Machine Sys2Proof.Safety

/-! ## WellFormed refuses ill-formed terms -/

/-- R80: `RSV` not 0. -/
theorem test_word_reserved_bits : wordLegal 0x80000003#32 = false := by decide
/-- R84: `OP` 4 and 14, the ends of the reserved range. -/
theorem test_word_reserved_op : wordLegal 0x00000004#32 = false ∧ wordLegal 0x0000000E#32 = false := by decide
/-- R84: `DIR = 1` where it is not defined. -/
theorem test_word_direction :
    wordLegal 0x00000010#32 = false ∧ wordLegal 0x00000011#32 = false ∧ wordLegal 0x0000001F#32 = false := by decide
/-- V-H3, V-H5: a register takes width 4 only. -/
theorem test_access_width : (Access.rd8 0x008#32).wf Config.exampleParams = false ∧
    Access.wf Config.exampleParams { rw := .write, off := 0x00C#32, width := 2, data := 0#32 } = false := by decide
/-- V-H4, V-H8: misaligned. -/
theorem test_access_misaligned : (Access.rd32 0x00A#32).wf Config.exampleParams = false ∧
    (Access.rd32 0x1002#32).wf Config.exampleParams = false := by decide
/-- V-H6, V-H7: outside the window. -/
theorem test_access_outside : (Access.rd32 0x1040#32).wf Config.exampleParams = false ∧
    (Access.wr32 0x1041#32 0#32).wf Config.exampleParams = false := by decide
/-- V-H9: the last word and the last byte of MBUF are taken. -/
theorem test_access_last : (Access.rd32 0x103C#32).wf Config.exampleParams = true ∧
    (Access.rd8 0x103F#32).wf Config.exampleParams = true := by decide
/-- R88: `PAD bad(1)`. -/
theorem test_pad_bad_one : PadArg.wf (.bad 1#8) = false ∧ PadArg.wf (.bad 2#8) = true := by decide
/-- R88: a message longer than MBUF. -/
theorem test_composition_pad : Pseudo.wf { msgBytes := 8, base := 0 } (.ddesE [] [] [] (some (.bad 1#8))) = false ∧
    Pseudo.wf { msgBytes := 8, base := 0 } (.tdesE [] [] [] none none) = true := by decide

theorem test_ldmsg_too_long : Pseudo.wf { msgBytes := 8, base := 0 } (.ldmsg (List.replicate 9 0#8)) = false ∧
    Pseudo.wf { msgBytes := 8, base := 0 } (.cryptx [] .encrypt [] (.bad 1#8)) = false := by decide
/-- R6: the capacity is at least 8 and a multiple of 8; log 2: it lies in the offset space. -/
theorem test_params : Params.wf { msgBytes := 0, base := 0 } = false ∧ Params.wf { msgBytes := 12, base := 0 } = false ∧
    Params.wf { msgBytes := 2 ^ 32, base := 0 } = false ∧ Params.wf { msgBytes := 8, base := 0 } = true := by decide

/-! ## Decoding: RSV, DIR and OP written out bit by bit (R80, R83) -/

theorem test_decode_nop : decode 0b00000000000000000000000000000000#32 = .ok .nop := by decide
theorem test_decode_keygen : decode 0b00000000000000000000000000000001#32 = .ok .keygen := by decide
theorem test_decode_blockE : decode 0b00000000000000000000000000000010#32 = .ok .blockE := by decide
theorem test_decode_blockD : decode 0b00000000000000000000000000010010#32 = .ok .blockD := by decide
theorem test_decode_cryptE : decode 0b00000000000000000000000000000011#32 = .ok .cryptE := by decide
theorem test_decode_cryptD : decode 0b00000000000000000000000000010011#32 = .ok .cryptD := by decide
theorem test_decode_clear : decode 0b00000000000000000000000000001111#32 = .ok .clear := by decide
/-- V-C1, code 5: the illegal words of the vector table, each with its group of R84. -/
theorem test_decode_illegal :
    decode 0x00000010#32 = .error .directionNotDefined ∧ decode 0x00000011#32 = .error .directionNotDefined ∧
    decode 0x0000001F#32 = .error .directionNotDefined ∧ decode 0x00000004#32 = .error .reservedOp ∧
    decode 0x0000000E#32 = .error .reservedOp ∧ decode 0x00000020#32 = .error .reservedBits ∧
    decode 0x80000003#32 = .error .reservedBits ∧ decode 0xFFFFFFFF#32 = .error .reservedBits := by decide

/-! ## The functions (V-K, V-F, V-B, V-A, V-E, V-P) -/

/-- V-K1: C0, D0, and rows 1 and 16. -/
theorem test_key_halves : keyHalves 0x133457799BBCDFF1#64 = (0xF0CCAAF#28, 0x556678F#28) := by decide +kernel
theorem test_schedule_row1 : halvesAfter 1 (0xF0CCAAF#28, 0x556678F#28) = (0xE19955F#28, 0xAACCF1E#28) ∧
    subkeyOf (0xE19955F#28, 0xAACCF1E#28) = 0x1B02EFFC7072#48 := by decide +kernel
theorem test_schedule_row16 : halvesAfter 15 (0xF0CCAAF#28, 0x556678F#28) = (0xF866557#28, 0xAAB33C7#28) ∧
    subkeyOf (0xF0CCAAF#28, 0x556678F#28) = 0xCB3D8B0E17F5#48 := by decide +kernel
/-- V-F1: single bits of E. -/
theorem test_expand : expand 0x80000000#32 = 0x400000000001#48 ∧ expand 0x08000000#32 = 0x050000000000#48 ∧
    expand 0x00000001#32 = 0x800000000002#48 := by decide +kernel
/-- V-F2: single bits of P. -/
theorem test_pperm : pperm 0x80000000#32 = 0x00800000#32 ∧ pperm 0x00010000#32 = 0x80000000#32 ∧
    pperm 0x00000001#32 = 0x00000800#32 := by decide +kernel
/-- V-F3: the column `011011` of every box. -/
theorem test_sbox_lookups : (List.range 8).map (fun j => sboxEntry j (sboxRow 0b011011#6) (sboxCol 0b011011#6)) =
    [5, 9, 11, 10, 9, 11, 15, 14] := by decide +kernel
/-- V-F4. -/
theorem test_sbox_layer : sboxLayer 0x000000000000#48 = 0xEFA72C4D#32 ∧ sboxLayer 0xFFFFFFFFFFFF#48 = 0xD9CE3DCB#32 := by
  decide +kernel
theorem test_feistel : feistelF 0x00000000#32 0#48 = 0xD8D8DBBC#32 ∧ feistelF 0xFFFFFFFF#32 0#48 = 0x38DBF9CB#32 := by
  decide +kernel
/-- V-F5. -/
theorem test_round : feistelRound (0xCC00CCFF#32, 0xF0AAF0AA#32) 0x1B02EFFC7072#48 = (0xF0AAF0AA#32, 0xEF4A6544#32) := by
  decide +kernel
/-- V-B1 and V-B2: IP of the block of V-A1, FP of `R16 ‖ L16`. -/
theorem test_ip_fp : blockHalves 0x0123456789ABCDEF#64 = (0xCC00CCFF#32, 0xF0AAF0AA#32) ∧
    blockOf (0x43423234#32, 0x0A4CD995#32) = 0x85E813540F0AB405#64 := by decide +kernel
/-- V-A1 and V-B3: a whole block, both directions. -/
theorem test_des_encrypt : desWithKey 0x0123456789ABCDEF#64 0x133457799BBCDFF1#64 .encrypt = 0x85E813540F0AB405#64 := by
  decide +kernel
theorem test_des_decrypt : desWithKey 0x85E813540F0AB405#64 0x133457799BBCDFF1#64 .decrypt = 0x0123456789ABCDEF#64 := by
  decide +kernel
/-- V-E4 and V-P2: "Hello" under "ASDFGHJK", fill byte and PKCS#7. -/
theorem test_crypt_fill : crypt [0x48#8, 0x65#8, 0x6C#8, 0x6C#8, 0x6F#8] .encrypt 0x4153444647484A4B#64 PadCfg.reset =
    .ok [0xC7#8, 0xAE#8, 0x9A#8, 0x1F#8, 0x87#8, 0x94#8, 0xBF#8, 0x00#8] := by decide +kernel
theorem test_crypt_pkcs7 : crypt [0x48#8, 0x65#8, 0x6C#8, 0x6C#8, 0x6F#8] .encrypt 0x4153444647484A4B#64
    (PadCfg.ofWord 0x00020000#32) = .ok [0xAB#8, 0xD3#8, 0xBF#8, 0x5F#8, 0x53#8, 0xC4#8, 0xA3#8, 0x83#8] := by
  decide +kernel
/-- V-D1: double encryption, with the pad setting omitted (R205: `PAD 0x20`). -/
theorem test_double : doubleEncrypt [0x48#8, 0x65#8, 0x6C#8, 0x6C#8, 0x6F#8] 0x4153444647484A4B#64
    0x3132333435363738#64 none =
    .ok [0xA8#8, 0xD7#8, 0xD9#8, 0x37#8, 0x97#8, 0xDD#8, 0x1B#8, 0x61#8] := by decide +kernel

/-- R205, R88: the pad setting of a composition that names none is what `PAD 0x20` leaves in `PADCFG`. -/
theorem test_default_pad : PadCfg.ofWord (padWord defaultPad) = PadCfg.default := by decide

/-! ## Small states -/

/-- The state a step leaves, where it leaves one. -/
def after (o : Host.Outcome State Fault Refusal) : State :=
  match o with
  | .next s => s
  | .fault _ => State.reset
  | .refused _ => State.reset

/-- An idle engine with the key of V-A1 and "Hello" in MBUF. -/
def ready : State :=
  { State.reset with
    key := 0x133457799BBCDFF1#64
    keyLen := 8#8
    blk := 0x0123456789ABCDEF#64
    msgLen := 5#32
    mbuf := [(0, 0x48#8), (1, 0x65#8), (2, 0x6C#8), (3, 0x6C#8), (4, 0x6F#8)] }

/-- An engine that runs a command of kind `op` over `n` blocks, in a phase. -/
def running (op : CurOp) (n : Word) (p : Phase) (round : BitVec 5) : State :=
  { ready with
    busy := true
    phase := p
    round := round
    curOp := op
    nblk := n
    padv := 0x20#8
    lenL := 5#32
    ksValid := p != .ks
    c := 0xF0CCAAF#28
    d := 0x556678F#28 }

/-! ## The commands (V-C, V-E) -/

/-- V-C2: NOP after an error. -/
theorem test_nop : (after (exec .nop { State.reset with done := true, err := true, errCode := .invalidKeyLength })).statusWord =
    0x00000002#32 := by decide
/-- V-C5: NOP keeps `OVR`. -/
theorem test_nop_ovr :
    (after (exec .nop { State.reset with done := true, ovr := true, ksValid := true })).statusWord = 0x0000010A#32 := by
  decide
/-- V-C1: KEYGEN at reset. -/
theorem test_keygen_at_reset : (after (exec .keygen State.reset)).statusWord = 0x00000016#32 := by decide
/-- V-K8: just after the issue. -/
theorem test_keygen_issue : (after (exec .keygen ready)).statusWord = 0x00000201#32 := by decide +kernel
/-- V-B9: BLOCK.E with `KEY_LEN = 9`. -/
theorem test_blockE_key : (after (exec .blockE { ready with keyLen := 9#8 })).statusWord = 0x00000016#32 ∧
    (after (exec .blockE { ready with keyLen := 9#8 })).blk = 0x0123456789ABCDEF#64 := by decide
/-- V-B10: BLOCK reads neither `MSG_LEN` nor `PADCFG`. -/
theorem test_blockE_msgLen : (after (exec .blockE { ready with
    params := { msgBytes := 8, base := 0 }, msgLen := 1000#32, padcfg := PadCfg.ofWord 0#32 })).statusWord = 0x00000201#32 := by
  decide +kernel
/-- V-B3: the direction a BLOCK.D latches shows in `STATUS` bit 17 (R24). -/
theorem test_blockD_dir : (after (exec .blockD ready)).statusWord = 0x00020201#32 := by decide +kernel
/-- V-E3: "Hello" with no pad byte. -/
theorem test_cryptE_absent : (after (exec .cryptE { ready with padcfg := PadCfg.ofWord 0#32 })).statusWord =
    0x00000026#32 := by decide
/-- V-E12: a PKCS#7 pad that does not fit. -/
theorem test_cryptE_length : (after (exec .cryptE { ready with
    msgLen := 64#32, padcfg := PadCfg.ofWord 0x00020000#32 })).statusWord = 0x00000066#32 := by decide
/-- V-E15: five bytes are no ciphertext. -/
theorem test_cryptD_malformed : (after (exec .cryptD ready)).statusWord = 0x00000046#32 := by decide
/-- V-C1: the pad length is checked before alignment. -/
theorem test_cryptD_pad : (after (exec .cryptD { ready with padcfg := PadCfg.ofWord 0x00010220#32 })).statusWord =
    0x00000026#32 := by decide
/-- V-C6: CLEAR with `OVR = 1`, even while busy, leaves the reset status and MBUF. -/
theorem test_clear : (after (exec .clear { running .crypt 1#32 .load 16#5 with ovr := true })).statusWord = 0#32 ∧
    (after (exec .clear (running .crypt 1#32 .load 16#5))).mbuf = ready.mbuf := by decide

/-! ## The engine's steps (V-K, V-B) -/

/-- V-K1, V-K8: the first KS step. -/
theorem test_ks_step : (running .keygen 0#32 .ks 0#5).engineStep.statusWord = 0x00001201#32 ∧
    (running .keygen 0#32 .ks 0#5).engineStep.c = 0xE19955F#28 ∧
    subkeyEntry (running .keygen 0#32 .ks 0#5).engineStep.sk.toList 1 = 0x1B02EFFC7072#48 := by decide +kernel
/-- V-K8: the sixteenth ends KEYGEN. -/
theorem test_ks_last : (running .keygen 0#32 .ks 15#5).engineStep.statusWord = 0x00000102#32 := by decide +kernel
/-- V-B2: the LOAD step of V-A1. -/
theorem test_load_step : (running .block 1#32 .load 0#5).engineStep.l = 0xCC00CCFF#32 ∧
    (running .block 1#32 .load 0#5).engineStep.r = 0xF0AAF0AA#32 ∧
    (running .block 1#32 .load 0#5).engineStep.statusWord = 0x00000701#32 := by decide +kernel
/-- V-E4: the LOAD step of CRYPT pads "Hello" with spaces (the block is that of V-E4's decryption). -/
theorem test_load_padded : (running .crypt 1#32 .load 0#5).loadOperand = 0x48656C6C6F202020#64 := by decide +kernel
/-- V-F5: the first RND step of V-A1, with SK[1] of V-K1. -/
theorem test_rnd_step : ({ running .block 1#32 .rnd 0#5 with
    l := 0xCC00CCFF#32, r := 0xF0AAF0AA#32, sk := (Vector.replicate 16 0#48).setIfInBounds 0 0x1B02EFFC7072#48 } :
      State).engineStep.r = 0xEF4A6544#32 := by decide +kernel
/-- V-B2: the STORE step of V-A1. -/
theorem test_store_step : ({ running .block 1#32 .store 16#5 with l := 0x43423234#32, r := 0x0A4CD995#32 } :
      State).engineStep.blk = 0x85E813540F0AB405#64 ∧
    ({ running .block 1#32 .store 16#5 with l := 0x43423234#32, r := 0x0A4CD995#32 } : State).engineStep.outLen = 8#32 := by
  decide +kernel
/-- V-C7: after the first STORE of two, LOAD with `ROUND = 16`. -/
theorem test_store_more : (running .crypt 2#32 .store 16#5).engineStep.statusWord = 0x00010501#32 ∧
    (running .crypt 2#32 .store 16#5).engineStep.blkIdx = 1#32 := by decide +kernel

/-! ## The bus (V-H, V-C4) -/

/-- V-H1, V-H2, V-H10. -/
theorem test_read_registers : (after (busAccess (Access.rd32 0x000#32) State.reset)).readLog = [0x44455331#32] ∧
    (after (busAccess (Access.rd32 0x02C#32) State.reset)).readLog = [0x00000040#32] ∧
    (after (busAccess (Access.rd32 0x034#32) State.reset)).readLog = [0#32] ∧
    (after (busAccess (Access.rd32 0x200#32) State.reset)).readLog = [0#32] := by decide
/-- V-H11: the reserved bits of `PADCFG` read 0. -/
theorem test_padcfg_mask : (after (busAccess (Access.wr32 0x00C#32 0xFFFFFFFF#32) State.reset)).padcfg.toWord =
    0x0003FFFF#32 := by decide
/-- V-H12: writes to read-only registers. -/
theorem test_read_only : after (busAccess (Access.wr32 0x008#32 0xFFFFFFFF#32) ready) = ready ∧
    after (busAccess (Access.wr32 0x020#32 5#32) ready) = ready ∧ after (busAccess (Access.wr32 0x000#32 0#32) ready) = ready := by
  decide
/-- V-H13: a word lies in MBUF big-endian. -/
theorem test_big_endian : (after (busAccess (Access.wr32 0x1000#32 0x41424344#32) ready)).mbuf =
    [(0, 0x41#8), (1, 0x42#8), (2, 0x43#8), (3, 0x44#8), (4, 0x6F#8)] := by decide +kernel
/-- V-H14: a faulting access while busy faults. -/
theorem test_fault_first : busAccess (Access.rd8 0x008#32) (running .keygen 0#32 .ks 0#5) = .fault .hostBusFault := rfl
/-- V-K7: `KEY_LEN` written as `0x108` reads 8. -/
theorem test_key_len : (after (busAccess (Access.wr32 0x018#32 0x108#32) State.reset)).keyLen = 8#8 := by decide
/-- V-C4: writes while busy set `OVR` only. -/
theorem test_overrun : (after (busAccess (Access.wr32 0x014#32 0#32) (running .keygen 0#32 .ks 1#5))).statusWord = 0x00001209#32 ∧
    (after (busAccess (Access.command 2#32) (running .keygen 0#32 .ks 1#5))).statusWord = 0x00001209#32 ∧
    (after (busAccess (Access.wr32 0x014#32 0#32) (running .keygen 0#32 .ks 1#5))).key = 0x133457799BBCDFF1#64 := by decide
/-- MBUF stays canonical: a zero byte written is an unlisted one. -/
theorem test_canonical : Memory.write [(1, 0x41#8)] 1 0#8 = [] ∧ Memory.wf [(1, 0x41#8), (0, 0x42#8)] = false ∧
    Memory.wf [(0, 0#8)] = false := by decide

/-! ## Witnesses: states and operands that meet the hypotheses of each statement -/

theorem witness_DecodeAcceptsExactlyTheLegalWords :
    rsvField 0x00000020#32 ≠ 0#27 ∧
    (rsvField 0x00000004#32 = 0#27 ∧ 4 ≤ (opField 0x00000004#32).toNat ∧ (opField 0x00000004#32).toNat ≤ 14) ∧
    (rsvField 0x0000000E#32 = 0#27 ∧ 4 ≤ (opField 0x0000000E#32).toNat ∧ (opField 0x0000000E#32).toNat ≤ 14) ∧
    (rsvField 0x00000010#32 = 0#27 ∧ dirField 0x00000010#32 = true ∧ opField 0x00000010#32 = 0#4) ∧
    (dirField 0x00000011#32 = true ∧ opField 0x00000011#32 = 1#4) ∧
    (dirField 0x0000001F#32 = true ∧ opField 0x0000001F#32 = 15#4) := by decide

theorem witness_StepRunsThePresentedCommand :
    ∃ (s : State) (w : Word) (i : Instr) (rest : List HostOp),
      s.host = .access (Access.command w) :: rest ∧ nextAgent s = some .host ∧ decode w = .ok i :=
  ⟨{ running .keygen 0#32 .ks 0#5 with host := [.access (Access.command 0xF#32)], turns := [.host] }, 0xF#32, .clear, [],
    by decide⟩

theorem witness_StepRunsTheFetchedWord : ∃ (w : Word) (i : Instr), decode w = .ok i := ⟨0x13#32, .cryptD, by decide⟩

theorem witness_IllegalWordFailsIdleAndIsIgnoredBusy :
    wordLegal 0x00000010#32 = false ∧ ready.busy = false ∧ (running .keygen 0#32 .ks 0#5).busy = true := by decide

theorem witness_EngineStepsWhileBusyAndHoldsWhileIdle :
    nextAgent { running .keygen 0#32 .ks 0#5 with host := [.poll], turns := [.engine] } = some .engine ∧
    ((running .keygen 0#32 .ks 0#5).host = [] ∧ (running .keygen 0#32 .ks 0#5).busy = true) ∧
    (State.reset.host = [] ∧ State.reset.busy = false) := by decide

theorem witness_BusFaultsExactlyOnAccessesNotTaken :
    ∃ (s : State) (f : Fault), step s = .fault f :=
  ⟨{ State.reset with host := [.access (Access.rd32 0x1040#32)] }, .hostBusFault, rfl⟩

/-- One address below the window and the first one past it, on an engine whose window does not stand at 0. -/
theorem witness_BusFaultsExactlyOnAccessesNotTaken_addresses :
    (0x3FFFFFFF < (Params.mk 64 0x40000000).base) ∧
    (Params.mk 64 0x40000000).base + 0x1000 + (Params.mk 64 0x40000000).msgBytes ≤ 0x40001040 := by decide

theorem witness_ReadsHaveNoSideEffect :
    (Access.rd32 0x103C#32).rw = .read ∧ (Access.rd32 0x103C#32).wf State.reset.params = true := by decide

theorem witness_RegisterWritesStoreTheirFields : State.reset.busy = false := by decide

theorem witness_ReadOnlyAndReservedOffsetsIgnoreWrites :
    (State.reset.busy = false ∧ (0xFFC#32 : Word).toNat < 0x1000 ∧ (0xFFC#32 : Word).toNat % 4 = 0 ∧
      (0xFFC#32 : Word) ∉ [0x004#32, 0x00C#32, 0x010#32, 0x014#32, 0x018#32, 0x01C#32, 0x024#32, 0x028#32]) ∧
    (∀ off ∈ [0x034, 0x0FC, 0x190, 0xFFC], (BitVec.ofNat 32 off).toNat % 4 = 0 ∧
      ((0x034 ≤ (BitVec.ofNat 32 off).toNat ∧ (BitVec.ofNat 32 off).toNat < 0x100) ∨
        (0x190 ≤ (BitVec.ofNat 32 off).toNat ∧ (BitVec.ofNat 32 off).toNat < 0x1000))) := by decide

theorem witness_WritesWhileBusyOnlySetOverrun :
    ((running .keygen 0#32 .ks 0#5).busy = true ∧ (Access.wr8 0x103F#32 1#8).rw = .write ∧
      (Access.wr8 0x103F#32 1#8).wf (running .keygen 0#32 .ks 0#5).params = true ∧
      isClearWrite (Access.wr8 0x103F#32 1#8) = false) ∧
    ({ State.reset with ovr := true } : State).ovr = true := by decide

theorem witness_WritesWhileBusyOnlySetOverrun_step :
    step { State.reset with ovr := true } = .next { State.reset with ovr := true } := rfl

theorem witness_HostBufferAccessesAreBigEndian :
    State.reset.params.wf = true ∧ State.reset.mbuf.wf = true ∧ 63 < State.reset.params.msgBytes ∧ 60 % 4 = 0 ∧
    60 + 4 ≤ State.reset.params.msgBytes ∧ State.reset.busy = false ∧
    (running .keygen 0#32 .ks 0#5).busy = true ∧ (running .keygen 0#32 .ks 0#5).params.wf = true ∧
    (running .keygen 0#32 .ks 0#5).mbuf.wf = true := by decide

theorem witness_NopClearsTheErrorIndication : ready.busy = false := by decide

theorem witness_KeygenIssueStartsTheSchedule : ready.busy = false ∧ ready.keyLen = 8#8 := by decide

theorem witness_BlockIssueStartsTheSchedule :
    (Instr.blockD, Direction.decrypt) ∈ [(Instr.blockE, Direction.encrypt), (.blockD, .decrypt)] ∧
    ready.params.wf = true ∧ ready.busy = false ∧ ready.keyLen = 8#8 := by decide

/-- `ready` with a message of another length and another pad setting. -/
def sized (len padcfg : Word) : State := { ready with msgLen := len, padcfg := PadCfg.ofWord padcfg }

/-- Fill mode at both ends: an empty message, a full buffer. -/
theorem witness_CryptEncryptIssueStartsTheSchedule :
    (ready.busy = false ∧ ready.keyLen = 8#8 ∧ (sized 0#32 0x00010120#32).padcfg.mode = .fill ∧
      (sized 0#32 0x00010120#32).padcfg.present = true ∧ (sized 0#32 0x00010120#32).padcfg.len = 1#8) ∧
    8 * (((sized 0#32 0x00010120#32).msgLen.toNat + 7) / 8) ≤ (sized 0#32 0x00010120#32).params.msgBytes ∧
    8 * (((sized 64#32 0x00010120#32).msgLen.toNat + 7) / 8) ≤ (sized 64#32 0x00010120#32).params.msgBytes := by
  decide +kernel

/-- PKCS#7 at the last length that fits. -/
theorem witness_CryptEncryptIssueStartsTheSchedule_pkcs7 :
    (sized 63#32 0x00020000#32).busy = false ∧ (sized 63#32 0x00020000#32).padcfg.mode = .pkcs7 ∧
    8 * ((sized 63#32 0x00020000#32).msgLen.toNat / 8 + 1) ≤ (sized 63#32 0x00020000#32).params.msgBytes := by
  decide +kernel

/-- No block, and a full buffer. -/
theorem witness_CryptDecryptIssueStartsTheSchedule :
    (ready.busy = false ∧ ready.keyLen = 8#8 ∧ (sized 0#32 0x00010120#32).padcfg.len = 1#8) ∧
    ((sized 0#32 0x00010120#32).msgLen.toNat % 8 = 0 ∧
      (sized 0#32 0x00010120#32).msgLen.toNat ≤ (sized 0#32 0x00010120#32).params.msgBytes) ∧
    ((sized 64#32 0x00010120#32).msgLen.toNat % 8 = 0 ∧
      (sized 64#32 0x00010120#32).msgLen.toNat ≤ (sized 64#32 0x00010120#32).params.msgBytes) := by decide +kernel

theorem witness_CommandsWhileBusyAreIgnored : (running .keygen 0#32 .ks 0#5).busy = true ∧ Instr.nop ≠ .clear := by decide

theorem witness_WrongKeyLengthFails :
    Instr.cryptD ∈ [Instr.keygen, .blockE, .blockD, .cryptE, .cryptD] ∧ State.reset.busy = false ∧
    State.reset.keyLen ≠ 8#8 := by decide

/-- One state for each of the four outcomes. -/
theorem witness_CryptEncryptFailsInOrder :
    (ready.busy = false ∧ ready.keyLen = 8#8) ∧
    (PadCfg.ofWord 0x00010220#32).mode = .fill ∧ (PadCfg.ofWord 0x00010220#32).present = true ∧
    (PadCfg.ofWord 0x00010220#32).len ≠ 1#8 ∧
    ((PadCfg.ofWord 0#32).mode = .fill ∧ (PadCfg.ofWord 0#32).present = false ∧ ready.msgLen.toNat % 8 ≠ 0) ∧
    (ready.params.msgBytes < 8 * ((65 + 7) / 8)) ∧ ¬(ready.params.msgBytes < 8 * ((64 + 7) / 8)) := by decide

theorem witness_CryptDecryptFailsInOrder :
    (ready.busy = false ∧ ready.keyLen = 8#8) ∧ ready.msgLen.toNat % 8 ≠ 0 ∧
    ready.params.msgBytes < (72#32 : Word).toNat ∧ ¬(ready.params.msgBytes < (64#32 : Word).toNat) := by decide

theorem witness_AlignmentErrorIsUnreachable :
    ∃ (m p : List Byte) (pad : PadCfg), padMessage m .encrypt pad = .ok p :=
  ⟨[0x41#8], _, PadCfg.reset, rfl⟩

theorem witness_ErrorsChangeFourFieldsOnly :
    ∃ (w : Word) (s t : State), s.busy = false ∧ commandWrite w s = .next t ∧ t.err = true :=
  ⟨0x10#32, State.reset, _, rfl, rfl, rfl⟩

theorem witness_CommandIssueFrame :
    ∃ t, exec .cryptE ready = .next t ∧ Instr.cryptE ≠ .clear ∧ ready.busy = false := ⟨_, rfl, by decide, rfl⟩

theorem witness_CommandIssueFrame_nop : ∃ t, exec .nop ready = .next t := ⟨_, rfl⟩

/-- The first and the last round; the last of a command that ends, and of one that goes on. -/
theorem witness_KeyScheduleStep :
    (∀ r ∈ [0#5, (15#5 : BitVec 5)], (running .keygen 0#32 .ks r).phase = .ks ∧
      (running .keygen 0#32 .ks r).round.toNat < 16) ∧
    ((running .keygen 0#32 .ks 15#5).round.toNat + 1 = 16 ∧ (running .keygen 0#32 .ks 15#5).curOp = .keygen) ∧
    ¬((running .crypt 1#32 .ks 15#5).curOp = .keygen ∨ (running .crypt 1#32 .ks 15#5).nblk = 0#32) := by decide

theorem witness_LoadStepTakesThePaddedBlock : (running .crypt 1#32 .load 0#5).phase = .load := by decide

theorem witness_RoundStepAppliesOneFeistelRound :
    ∀ r ∈ [0#5, (15#5 : BitVec 5)], (running .crypt 1#32 .rnd r).phase = .rnd ∧
      (running .crypt 1#32 .rnd r).round.toNat < 16 := by decide

/-- BLOCK and CRYPT; a last block, and one that is not the last. -/
theorem witness_StoreStepWritesTheBlock :
    ((running .block 1#32 .store 16#5).phase = .store ∧ (running .block 1#32 .store 16#5).mbuf.wf = true ∧
      (running .block 1#32 .store 16#5).curOp = .block ∧
      (running .block 1#32 .store 16#5).blkIdx + 1#32 = (running .block 1#32 .store 16#5).nblk) ∧
    ((running .crypt 2#32 .store 16#5).curOp ≠ .block ∧
      (running .crypt 2#32 .store 16#5).blkIdx + 1#32 ≠ (running .crypt 2#32 .store 16#5).nblk) := by decide

theorem witness_EngineStepFrame :
    (running .crypt 1#32 .load 0#5).phase ≠ .ks ∧ (running .crypt 1#32 .store 16#5).phase ≠ .load ∧
    (running .crypt 1#32 .store 16#5).phase ≠ .rnd ∧ (running .crypt 1#32 .load 0#5).phase ≠ .store := by decide

theorem witness_ScheduleReturnsToItsStart :
    (running .crypt 1#32 .ks 0#5).phase = .ks ∧ (running .crypt 1#32 .ks 0#5).round = 0#5 := by decide

/-- V-K3. -/
theorem witness_ParityBitsDoNotMatter :
    (0x4153444647484A4B#64 : Block) &&& 0xFEFEFEFEFEFEFEFE#64 =
      (0x4153444647484A4B#64 ^^^ 0x0101010101010101#64) &&& 0xFEFEFEFEFEFEFEFE#64 := by decide

theorem witness_DesIsSelfInverse : (List.replicate 16 (0#48 : Subkey)).length = 16 := by decide

theorem witness_BlocksAreIndependent :
    (List.replicate 16 (0x41#8 : Byte)).length % 8 = 0 ∧ 1 < (List.replicate 16 (0x41#8 : Byte)).length / 8 := by decide

theorem witness_CodecRoundTrip :
    ∃ (m c : List Byte) (k : Block) (pad : PadCfg), crypt m .encrypt k pad = .ok c := ⟨[0x41#8], _, 0#64, PadCfg.reset, rfl⟩

theorem witness_CompositionRoundTrip :
    (∃ (m p : List Byte) (pad : PadCfg), padMessage m .encrypt ((some pad).getD PadCfg.default) = .ok p) ∧
    ∃ m p : List Byte, padMessage m .encrypt (Option.none.getD PadCfg.default) = .ok p :=
  ⟨⟨[0x41#8], _, PadCfg.reset, rfl⟩, [0x41#8], _, rfl⟩

theorem witness_KeygenComputesTheSchedule : ready.busy = false ∧ ready.keyLen = 8#8 ∧ ready.host = [] := by decide

theorem witness_BlockComputesDes :
    (Instr.blockE, Direction.encrypt) ∈ [(Instr.blockE, Direction.encrypt), (.blockD, .decrypt)] ∧
    ready.params.wf = true ∧ ready.busy = false ∧ ready.keyLen = 8#8 ∧ ready.host = [] := by decide

/-- "Hello" in fill mode, and an empty message to decrypt. -/
theorem witness_CryptComputesTheCodec :
    ((Instr.cryptE, Direction.encrypt) ∈ [(Instr.cryptE, Direction.encrypt), (.cryptD, .decrypt)] ∧
      ready.params.wf = true ∧ ready.mbuf.wf = true ∧ ready.busy = false ∧ ready.host = [] ∧
      ready.checkIssue (.crypt .encrypt) = .ok (1, 0x20#8)) ∧
    ({ ready with msgLen := 0#32 } : State).checkIssue (.crypt .decrypt) = .ok (0, 0#8) := by decide

theorem witness_LdkeyPadAndNextWriteTheirRegisters : State.reset.busy = false := by decide

theorem witness_LdmsgFillsTheBuffer :
    State.reset.params.wf = true ∧ State.reset.mbuf.wf = true ∧ State.reset.busy = false ∧
    Pseudo.wf State.reset.params (.ldmsg (List.replicate 64 0x41#8)) = true := by decide

/-- A message that is encrypted, and a short key that is refused. -/
theorem witness_CryptxRunsEndToEnd :
    State.reset.busy = false ∧ State.reset.host = [] ∧
    Pseudo.wf State.reset.params (.cryptx [0x41#8] .encrypt (List.replicate 8 0x41#8) (.fill 0x20#8)) = true ∧
    check 64 (.crypt .encrypt) (BitVec.ofNat 8 (min 8 255)) 1 (PadCfg.ofWord (padWord (.fill 0x20#8))) = .ok (1, 0x20#8) ∧
    check 64 (.crypt .encrypt) (BitVec.ofNat 8 (min 7 255)) 1 (PadCfg.ofWord (padWord (.fill 0x20#8))) =
      .error .invalidKeyLength := by decide

theorem witness_CryptxRunsEndToEnd_invariant : Inv State.reset := by decide

theorem witness_ResetMeetsTheInvariants :
    Config.exampleParams.wf = true ∧ Memory.wf [(0, 0x41#8), (63, 0x42#8)] = true ∧
    ∀ x ∈ ([(0, 0x41#8), (63, 0x42#8)] : Memory), x.1 < Config.exampleParams.msgBytes := by decide

/-- An idle state and one in each phase meet the invariant. -/
theorem witness_EveryStepKeepsTheInvariant : Inv ready := by decide
theorem witness_EveryStepKeepsTheInvariant_ks : Inv (running .keygen 0#32 .ks 15#5) := by decide
theorem witness_EveryStepKeepsTheInvariant_load : Inv (running .crypt 1#32 .load 0#5) := by decide
theorem witness_EveryStepKeepsTheInvariant_rnd : Inv (running .crypt 1#32 .rnd 15#5) := by decide
theorem witness_EveryStepKeepsTheInvariant_store : Inv (running .block 1#32 .store 16#5) := by decide

theorem witness_EveryStepKeepsTheInvariant_step :
    ∃ t, step (running .block 1#32 .store 16#5) = .next t := ⟨_, rfl⟩

theorem witness_EveryStepKeepsTheScheduleValid : ScheduleInv ready := by
  refine ⟨fun h => ?_, fun h => ?_⟩ <;> cases h

theorem witness_EveryStepKeepsTheScheduleValid_ks : ScheduleInv (running .crypt 1#32 .ks 0#5) := by
  refine ⟨fun h => ?_, fun _ => ⟨(0xF0CCAAF#28, 0x556678F#28), rfl, fun i h1 h2 => ?_⟩⟩
  · cases h
  · have : i ≤ 0 := h2
    omega

/-- A CRYPT before the last block of a full buffer. -/
def lastBlock : State := { running .crypt 8#32 .load 16#5 with lenL := 57#32, blkIdx := 7#32 }

/-- The last block of a full buffer: its LOAD, and the first byte past the capacity. -/
theorem witness_EngineStaysInsideTheBuffer : Inv lastBlock ∧ lastBlock.phase = .load ∧
    lastBlock.params.msgBytes ≤ 64 ∧
    ∀ a, a < lastBlock.params.msgBytes → (lastBlock.mbuf.write 64 0x41#8).read a = lastBlock.mbuf.read a :=
  ⟨by decide, rfl, by decide, by decide⟩

theorem witness_BufferChangesOnlyByStoreOrHostWrite :
    ∃ t, step { State.reset with host := [.access (Access.wr8 0x1000#32 0x41#8)] } = .next t ∧
      t.mbuf.read 0 ≠ State.reset.mbuf.read 0 := ⟨_, rfl, by decide⟩

theorem witness_BufferChangesOnlyByStoreOrHostWrite_store :
    ∃ t, step (running .crypt 1#32 .store 16#5) = .next t ∧
      t.mbuf.read 0 ≠ (running .crypt 1#32 .store 16#5).mbuf.read 0 := ⟨_, rfl, by decide +kernel⟩

theorem witness_StepsLeftCountDown :
    Inv (running .crypt 1#32 .load 0#5) ∧ (running .crypt 1#32 .load 0#5).busy = true ∧
    stepsLeft (running .crypt 1#32 .store 16#5) = 1 := by decide

theorem witness_StepCountsAtIssue :
    ∃ t, Inv ready ∧ ready.busy = false ∧ exec .cryptE ready = .next t ∧ t.busy = true :=
  ⟨_, by decide, rfl, rfl, rfl⟩

theorem witness_StepCountsAtIssue_error :
    ∃ t, Inv State.reset ∧ State.reset.busy = false ∧ exec .keygen State.reset = .next t ∧ t.busy = false :=
  ⟨_, by decide, rfl, rfl, rfl⟩

/-- A CRYPT whose host polls, first before the engine moves. -/
def polled : State := { running .crypt 1#32 .load 0#5 with host := [.poll], turns := [.host, .engine] }

theorem witness_PollingEnds : Inv polled ∧ polled.busy = true ∧ polled.host = [.poll] := ⟨by decide, rfl, rfl⟩

theorem witness_HostCannotDisturbARunningCommand :
    ∃ t, let s := { running .crypt 1#32 .load 0#5 with host := [.access (Access.wr32 0x010#32 1#32)] }
      s.busy = true ∧ noClear s.host = true ∧ hostMove s = .next t := ⟨_, rfl, by decide, rfl⟩

theorem witness_ResultsDoNotDependOnInterleaving :
    ∃ (n : Nat) (s t : State), noClear s.host = true ∧
      (∀ (m : Nat) (u : State), m < n → Host.Core.run Sys2Proof.core m s = .next u → u.busy = true) ∧
      Host.Core.run Sys2Proof.core n s = .next t :=
  ⟨1, { running .crypt 1#32 .load 0#5 with host := [.poll], turns := [.host] }, _, by decide,
    fun m u hm hr => by
      obtain rfl : m = 0 := by omega
      injection hr with hr
      subst hr
      rfl,
    rfl⟩

end Sys2Proof.Tests
end

section
/-! PROOFS. The invariant of the machine: every power-on state meets it and every step keeps it. Each operation has one
lemma; the step is put together from them. -/

namespace Sys2Proof.Machine

open Sys2Proof.Safety

/-! ### MBUF -/

/-- Bytes written inside the capacity keep MBUF canonical and inside it (R68). -/
theorem Memory.inside_writeBytes (m : Memory) (cap a : Nat) (bs : List Byte)
    (h : m.wf = true ∧ ∀ x ∈ m, x.1 < cap) (hle : a + bs.length ≤ cap) :
    (m.writeBytes a bs).wf = true ∧ ∀ x ∈ m.writeBytes a bs, x.1 < cap := by
  obtain ⟨hwf, hin⟩ := h
  refine ⟨Memory.wf_writeBytes m a bs hwf, fun x hx => ?_⟩
  rcases Memory.mem_writeBytes m a bs x hx with hlt | hmem
  · omega
  · exact hin x hmem

/-! ### The checks of an issue -/

/-- The block count of CRYPT covers the message and adds at most one block (R164). -/
theorem crypt_blockCount_bounds (dir : Direction) (pad : PadCfg) (m : Nat) (hm : dir = .decrypt → m % 8 = 0) :
    m ≤ 8 * blockCount (.crypt dir) pad m ∧ 8 * blockCount (.crypt dir) pad m ≤ m + 8 := by
  cases dir with
  | decrypt =>
    have hwhole := hm rfl
    simp only [blockCount]
    omega
  | encrypt =>
    simp only [blockCount]
    cases pad.mode <;> simp only <;> omega

/-- The padded length of CRYPT is a multiple of 8 (R169). -/
theorem crypt_padded_length (cmd : Work) (pad : PadCfg) (m : Nat) (hc : cmd.curOp = .crypt)
    (hm : cmd = .crypt .decrypt → m % 8 = 0) : (m + padCount cmd pad m) % 8 = 0 := by
  cases cmd with
  | keygen => cases hc
  | block dir => cases hc
  | crypt dir =>
    cases dir with
    | encrypt =>
      have hcover := (crypt_blockCount_bounds .encrypt pad m (by simp)).1
      simp only [padCount]
      omega
    | decrypt => exact hm rfl

/-- ALIGNMENT_ERROR is never the answer of a check: no padded length calls for it (R169). -/
theorem check_ne_alignmentError (cap : Nat) (cmd : Work) (keyLen : Byte) (msgLen : Nat) (pad : PadCfg) (e : ErrCode)
    (h : check cap cmd keyLen msgLen pad = .error e) : e ≠ .alignmentError := by
  unfold check at h
  split at h; · injection h with h; subst h; decide
  split at h; · injection h with h; subst h; decide
  split at h; · injection h with h; subst h; decide
  rename_i hmal
  split at h; · injection h with h; subst h; decide
  split at h; · injection h with h; subst h; decide
  split at h
  · rename_i hal
    obtain ⟨hcrypt, hne⟩ := hal
    exact absurd (crypt_padded_length cmd pad msgLen hcrypt fun hd => by_contra fun hm => hmal ⟨hd, hm⟩) hne
  · cases h

/-! ### The parts of the invariant -/

/-- A running command may change its phase: nothing is reported before it ends. -/
theorem statusOk_setPhase (s : State) (p : Phase) (h : StatusOk s) (hs : s.phase ≠ .idle) (hp : p ≠ .idle) :
    StatusOk { s with phase := p } := by
  obtain ⟨hbusy, hrest⟩ := h
  exact ⟨by simp [hbusy, hs, hp], hrest⟩

/-- The end of a running command reports `DONE` and its output length (R197). -/
theorem statusOk_finish (s : State) (h : StatusOk s) : StatusOk s.finish := by
  obtain ⟨-, hcode, -, -, halign, -⟩ := h
  exact ⟨by simp, hcode, by simp, by simp, halign, .inr rfl⟩

/-- The latches do not depend on which phase a running command is in. -/
theorem commandOk_setPhase (s : State) (p : Phase) (h : CommandOk s) (hs : s.phase ≠ .idle) :
    CommandOk { s with phase := p } := by
  obtain ⟨hcap, hnone, hrest⟩ := h
  exact ⟨hcap, fun hc => absurd (hnone hc).1 hs, hrest⟩

/-- The end of a running command whose blocks are all done meets the invariant. -/
theorem inv_finish (s : State) (hcap : CapacityOk s) (hmem : MemoryOk s) (hst : StatusOk s) (hcmd : CommandOk s)
    (hp : s.phase ≠ .idle) (hdone : s.blkIdx = s.nblk) : Inv s.finish :=
  ⟨hcap, hmem, statusOk_finish s hst, by simp [SequenceOk, hdone], commandOk_setPhase s .idle hcmd hp⟩

/-! ### The engine's steps -/

/-- The end of the key schedule (R107): the command ends, or its first block is to load. -/
theorem inv_endSchedule (s : State) (h : Inv s) (hp : s.phase = .ks) : Inv s.endSchedule := by
  obtain ⟨hcap, hmem, hst, hseq, hcmd⟩ := h
  obtain ⟨-, hks, -⟩ := hseq
  obtain ⟨-, -, hidx⟩ := hks hp
  have hrun : s.phase ≠ .idle := by simp [hp]
  by_cases hend : s.curOp = .keygen ∨ s.nblk = 0#32
  · have ⟨_, _, hkeygen, _⟩ := hcmd
    have hn : s.nblk = 0#32 := hend.elim hkeygen id
    rw [State.endSchedule_finish s hend]
    exact inv_finish { s with ksValid := true, round := 0#5 } hcap hmem hst hcmd hrun (by simp [hidx, hn])
  · have hn : 0 < s.nblk.toNat := by
      rw [Nat.pos_iff_ne_zero]
      exact fun h0 => hend (.inr (BitVec.eq_of_toNat_eq (by simpa using h0)))
    rw [State.endSchedule_load s hend]
    exact ⟨hcap, hmem, statusOk_setPhase s .load hst hrun (by simp), by simp [SequenceOk, hidx, hn],
      commandOk_setPhase s .load hcmd hrun⟩

/-- A KS step (R107). -/
theorem inv_ksStep (s : State) (h : Inv s) (hp : s.phase = .ks) : Inv s.ksStep := by
  simp only [State.ksStep]
  split
  · exact inv_endSchedule { s with c := _, d := _, sk := _ } h hp
  · rename_i hne
    obtain ⟨hcap, hmem, hst, hseq, hcmd⟩ := h
    obtain ⟨-, hks, -⟩ := hseq
    obtain ⟨hlt, hvalid, hidx⟩ := hks hp
    have hround : (s.round + 1#5).toNat < 16 := by bv_omega
    exact ⟨hcap, hmem, hst, by simpa [SequenceOk, hp, hvalid, hidx] using hround, hcmd⟩

/-- A LOAD step (R143). -/
theorem inv_loadStep (s : State) (h : Inv s) (hp : s.phase = .load) : Inv s.loadStep := by
  obtain ⟨hcap, hmem, hst, hseq, hcmd⟩ := h
  obtain ⟨-, -, -, -, -, hblock⟩ := hseq
  have hrun : s.phase ≠ .idle := by simp [hp]
  exact ⟨hcap, hmem, statusOk_setPhase s .rnd hst hrun (by simp), by simp [SequenceOk, hblock (.inl hp)],
    commandOk_setPhase s .rnd hcmd hrun⟩

/-- A RND step (R144). -/
theorem inv_rndStep (s : State) (h : Inv s) (hp : s.phase = .rnd) : Inv s.rndStep := by
  obtain ⟨hcap, hmem, hst, hseq, hcmd⟩ := h
  obtain ⟨-, -, -, hrnd, -, hblock⟩ := hseq
  have hlt := hrnd hp
  have hblk := hblock (.inr (.inl hp))
  have hrun : s.phase ≠ .idle := by simp [hp]
  have hphase : (if s.round + 1#5 = 16#5 then Phase.store else s.phase) ≠ .idle := by split <;> simp [hp]
  refine ⟨hcap, hmem, statusOk_setPhase s _ hst hrun hphase, ?_, commandOk_setPhase s _ hcmd hrun⟩
  by_cases hend : s.round + 1#5 = 16#5
  · simp [SequenceOk, State.rndStep, hend, hblk]
  · have hround : (s.round + 1#5).toNat < 16 := by bv_omega
    simpa [SequenceOk, State.rndStep, hend, hp, hblk] using hround

/-- Where a STORE step puts its block is inside the capacity (R68). -/
theorem inv_storeBlock (s : State) (z : Block) (h : Inv s) (hp : s.phase = .store) : Inv (s.storeBlock z) := by
  obtain ⟨hcap, hmem, hst, hseq, hcmd⟩ := h
  refine ⟨hcap, ?_, hst, hseq, hcmd⟩
  obtain ⟨-, -, -, -, -, hblock⟩ := hseq
  obtain ⟨-, hlt⟩ := hblock (.inr (.inr hp))
  obtain ⟨hfit, -⟩ := hcmd
  simp only [MemoryOk, State.storeBlock]
  split
  · exact hmem
  · exact Memory.inside_writeBytes s.mbuf _ _ _ hmem (by simp only [length_bytesOf]; omega)

/-- Counting a stored block (R146): the command ends, or its next block is to load. -/
theorem inv_endStore (s : State) (h : Inv s) (hp : s.phase = .store) : Inv s.endStore := by
  obtain ⟨hcap, hmem, hst, hseq, hcmd⟩ := h
  obtain ⟨-, -, -, -, hround, hblock⟩ := hseq
  obtain ⟨hvalid, hlt⟩ := hblock (.inr (.inr hp))
  have hrun : s.phase ≠ .idle := by simp [hp]
  by_cases hend : s.blkIdx + 1#32 = s.nblk
  · rw [State.endStore_finish s hend]
    exact inv_finish { s with blkIdx := s.blkIdx + 1#32 } hcap hmem hst hcmd hrun hend
  · have hnext : (s.blkIdx + 1#32).toNat < s.nblk.toNat := by bv_omega
    rw [State.endStore_load s hend]
    exact ⟨hcap, hmem, statusOk_setPhase s .load hst hrun (by simp),
      by simpa [SequenceOk, hround hp, hvalid] using hnext, commandOk_setPhase s .load hcmd hrun⟩

/-- Every step of the engine keeps the invariant. -/
theorem inv_engineStep (s : State) (h : Inv s) : Inv s.engineStep := by
  cases hp : s.phase with
  | idle => rwa [State.engineStep_idle s hp]
  | ks => rw [State.engineStep_ks s hp]; exact inv_ksStep s h hp
  | load => rw [State.engineStep_load s hp]; exact inv_loadStep s h hp
  | rnd => rw [State.engineStep_rnd s hp]; exact inv_rndStep s h hp
  | store => rw [State.engineStep_store s hp]; exact inv_endStore _ (inv_storeBlock s _ h hp) hp

/-! ### The host's accesses -/

/-- Every power-on state of a legal capacity meets the invariant (R250). -/
theorem inv_resetWith (p : Params) (m : Memory) (hp : p.wf = true)
    (hm : m.wf = true ∧ ∀ x ∈ m, x.1 < p.msgBytes) : Inv (State.resetWith p m) :=
  ⟨hp, hm, by simp [StatusOk, State.resetWith], by simp [SequenceOk, State.resetWith],
    by simp [CommandOk, State.resetWith]⟩

/-- CLEAR (R251): the state is a power-on state but for the model's own fields. -/
theorem inv_softReset (s : State) (h : Inv s) : Inv s.softReset := by
  obtain ⟨hcap, hmem, -⟩ := h
  exact inv_resetWith s.params s.mbuf hcap hmem

/-- NOP while idle (R200). -/
theorem inv_complete (s : State) (h : Inv s) (hb : s.busy = false) : Inv s.acknowledge.complete := by
  obtain ⟨hcap, hmem, hst, hseq, hcmd⟩ := h
  obtain ⟨hbusy, -, -, -, -, hout⟩ := hst
  exact ⟨hcap, hmem, ⟨hbusy, by simp, by simp, by simp [hb], by simp, hout⟩, hseq, hcmd⟩

/-- A failing issue (R222) reports an error of R220 other than ALIGNMENT_ERROR (R169). -/
theorem inv_raiseError (s : State) (e : ErrCode) (h : Inv s) (hb : s.busy = false) (hn : e ≠ .none)
    (ha : e ≠ .alignmentError) : Inv (s.raiseError e) := by
  obtain ⟨hcap, hmem, hst, hseq, hcmd⟩ := h
  obtain ⟨hbusy, -⟩ := hst
  exact ⟨hcap, hmem, ⟨hbusy, by simp [hn], by simp, by simp [hb], ha, .inl rfl⟩, hseq, hcmd⟩

/-- The errors a failing issue can report. -/
theorem failed_error_ne (s : State) (e : ErrCode) (he : e = .illegalCommand ∨ ∃ cmd, s.checkIssue cmd = .error e) :
    e ≠ .none ∧ e ≠ .alignmentError := by
  rcases he with rfl | ⟨cmd, hk⟩
  · decide
  · exact ⟨check_error _ _ _ _ _ _ hk, check_ne_alignmentError _ _ _ _ _ _ hk⟩

/-- A checked block count, latched in 32 bits, loses nothing for a legal capacity (log 19). -/
theorem toNat_blockCount (p : Params) (n : Nat) (hp : p.wf = true) (hn : 8 * n ≤ p.msgBytes) :
    (BitVec.ofNat 32 n).toNat = n := by
  simp only [Params.wf, Bool.and_eq_true, decide_eq_true_eq] at hp
  rw [BitVec.toNat_ofNat, Nat.mod_eq_of_lt (by omega)]

/-- The latches of a successful issue fit the command and the buffer (R164, R193). -/
theorem commandOk_start (s : State) (cmd : Work) (n : Nat) (pv : Byte) (hcap : CapacityOk s)
    (hk : s.checkIssue cmd = .ok (n, pv)) : CommandOk (s.start cmd n pv) := by
  obtain ⟨-, hcount, -, hfit, hdec, -⟩ := check_ok _ _ _ _ _ _ _ hk
  have hn := toNat_blockCount s.params n hcap hfit
  refine ⟨by simp only [State.start_nblk, hn]; exact hfit, ?_⟩
  cases cmd with
  | keygen => subst hcount; simp [Work.curOp, blockCount]
  | block dir => subst hcount; simp [Work.curOp, blockCount]
  | crypt dir =>
    have hbounds := crypt_blockCount_bounds dir s.padcfg s.msgLen.toNat (fun hd => hdec (by rw [hd]))
    rw [← hcount] at hbounds
    simp only [State.start_curOp, State.start_nblk, State.start_lenL, Work.curOp, hn]
    exact ⟨by simp, by simp, by simp, fun _ => hbounds⟩

/-- A successful issue (R193). -/
theorem inv_started (s : State) (cmd : Work) (n : Nat) (pv : Byte) (h : Inv s)
    (hk : s.checkIssue cmd = .ok (n, pv)) :
    Inv { s.start cmd n pv with done := false, err := false, errCode := .none, outLen := 0#32 } := by
  obtain ⟨hcap, hmem, -⟩ := h
  exact ⟨hcap, hmem, by simp [StatusOk], by simp [SequenceOk], commandOk_start s cmd n pv hcap hk⟩

/-- A register write stores nothing the invariant speaks of. -/
theorem inv_writeReg (s : State) (w : Word) (r : Reg) (h : Inv s) : Inv (s.writeReg w r) := by
  cases r <;> exact h

/-- A taken write to a register or to MBUF (R66). -/
theorem inv_writeTarget (s : State) (w : Word) (off width : Nat) (g : Target) (h : Inv s)
    (ht : targetOf s.params.msgBytes off width = some g) : Inv (s.writeTarget w g) := by
  cases g with
  | register r => exact inv_writeReg s w r h
  | buffer a n =>
    obtain ⟨hcap, hmem, hrest⟩ := h
    obtain ⟨-, -, hle⟩ := targetOf_buffer _ _ _ _ _ ht
    have hlen : a + (writeData n w).length ≤ s.params.msgBytes := by simpa [writeData] using hle
    exact ⟨hcap, Memory.inside_writeBytes s.mbuf _ a _ hmem hlen, hrest⟩

/-- Whatever a taken write does keeps the invariant (R225). -/
theorem inv_writeEffect (s u : State) (t : Access) (h : Inv s) (e : WriteEffect s t u) : Inv u := by
  cases e with
  | ignored => exact h
  | cleared => exact inv_softReset s h
  | completed hb => exact inv_complete s h hb
  | failed e hb he =>
    obtain ⟨hnone, halign⟩ := failed_error_ne s e he
    exact inv_raiseError s e h hb hnone halign
  | started cmd n pv hb hk => exact inv_started s cmd n pv h hk
  | stored g hb hg ht => exact inv_writeTarget s t.data _ _ g h ht

/-- A host access keeps the invariant; a read changes the host's record only. -/
theorem inv_busAccess (s u : State) (t : Access) (h : Inv s) (hu : busAccess t s = .next u) : Inv u := by
  obtain ⟨-, ⟨-, v, rfl⟩ | ⟨-, e⟩⟩ := busAccess_effect t s u hu
  · exact h
  · exact inv_writeEffect s u t h e

/-- A host operation keeps the invariant: it is an access, or it changes the host's own fields only. -/
theorem inv_hostMove (s u : State) (h : Inv s) (hu : hostMove s = .next u) : Inv u := by
  rcases hostMove_effect s u hu with ⟨-, rfl⟩ | ⟨t, rest, -, ha⟩ | ⟨host', v, rfl, -⟩
  · exact h
  · exact inv_busAccess { s with host := rest } u t h ha
  · exact h

/-- The turn order is no part of the invariant. -/
theorem inv_takeTurn (s : State) (h : Inv s) : Inv s.takeTurn := by
  unfold State.takeTurn
  split <;> exact h

/-- Settles O52: a step holds the state, or is a host operation, or is an engine step. -/
theorem everyStepKeepsTheInvariant : Obligations.EveryStepKeepsTheInvariant := by
  unfold Obligations.EveryStepKeepsTheInvariant
  intro s t h hstep
  rcases step_effect s t hstep with ⟨-, -, rfl⟩ | ⟨-, hmove⟩ | ⟨-, rfl⟩
  · exact h
  · exact inv_hostMove s.takeTurn t (inv_takeTurn s h) hmove
  · exact inv_engineStep s.takeTurn (inv_takeTurn s h)

/-- Settles O51: the subkey file is not valid and no schedule is running. -/
theorem resetMeetsTheInvariants : Obligations.ResetMeetsTheInvariants := by
  unfold Obligations.ResetMeetsTheInvariants
  intro p m hp hm hin
  exact ⟨inv_resetWith p m hp ⟨hm, hin⟩, by simp [ScheduleInv, State.resetWith]⟩

end Sys2Proof.Machine
end

section
/-! PROOFS. The register map: what `STATUS` shows, what a read of a register returns, and what an idle write stores. -/

namespace Sys2Proof.Machine

/-! ### `STATUS` -/

/-- `STATUS` field by field (R24): every field stands above the widths of those written after it. -/
theorem State.statusWord_fields (s : State) :
    s.statusWord.extractLsb' 18 14 = 0#14 ∧
    s.statusWord.extractLsb' 17 1 = directionBit s.curDir ∧
    s.statusWord.extractLsb' 12 5 = s.round ∧
    s.statusWord.extractLsb' 9 3 = s.phase.code ∧
    s.statusWord.extractLsb' 8 1 = BitVec.ofBool s.ksValid ∧
    s.statusWord.extractLsb' 4 4 = s.errCode.code ∧
    s.statusWord.extractLsb' 3 1 = BitVec.ofBool s.ovr ∧
    s.statusWord.extractLsb' 2 1 = BitVec.ofBool s.err ∧
    s.statusWord.extractLsb' 1 1 = BitVec.ofBool s.done ∧
    s.statusWord.extractLsb' 0 1 = BitVec.ofBool s.busy := by
  unfold State.statusWord
  refine ⟨?_, ?_, ?_, ?_, ?_, ?_, ?_, ?_, ?_, ?_⟩
  · iterate 9 refine (BitVec.extractLsb'_append_eq_of_le (by decide)).trans ?_
    exact BitVec.extractLsb'_eq_self
  all_goals
    repeat refine (BitVec.extractLsb'_append_eq_of_le (by decide)).trans ?_
    exact (BitVec.extractLsb'_append_eq_of_add_le (by decide)).trans BitVec.extractLsb'_eq_self

/-- A field of one bit is that bit. -/
theorem getLsbD_of_extractLsb'_eq {n k : Nat} {w : BitVec n} {b : Bool} (h : w.extractLsb' k 1 = BitVec.ofBool b) :
    w.getLsbD k = b := by
  simpa using congrArg (BitVec.getLsbD · 0) h

/-- Settles O16: each field of STATUS shows its part of the state, and each code its number. -/
theorem statusShowsItsFields : Obligations.StatusShowsItsFields := by
  unfold Obligations.StatusShowsItsFields
  intro s
  obtain ⟨hrsv, hdir, hround, hphase, hks, hcode, hovr, herr, hdone, hbusy⟩ := s.statusWord_fields
  refine ⟨getLsbD_of_extractLsb'_eq hbusy, getLsbD_of_extractLsb'_eq hdone, getLsbD_of_extractLsb'_eq herr,
    getLsbD_of_extractLsb'_eq hovr, ?_, getLsbD_of_extractLsb'_eq hks, ?_, hround, ?_, hrsv⟩
  · rw [hcode]; cases s.errCode <;> rfl
  · rw [hphase]; cases s.phase <;> rfl
  · have hbit : directionBit s.curDir = BitVec.ofBool (s.curDir = .decrypt) := by cases s.curDir <;> rfl
    rw [getLsbD_of_extractLsb'_eq (hdir.trans hbit), decide_eq_true_iff]

/-! ### Which register stands at an offset -/

/-- Where an aligned 32-bit access below the end of the register window goes (R62, R64). -/
theorem targetOf_register (cap off : Nat) (hlt : off < 0x1000) (hal : off % 4 = 0) :
    targetOf cap off 4 = some (.register (regAt off)) := by
  simp [targetOf, hlt, hal]

/-- The high word of an entry of the SK window (R34). -/
theorem regAt_skHi (i : Fin 16) : regAt (0x100 + 8 * i.val) = .skHi (i.val + 1) := by
  have hi := i.isLt
  unfold regAt
  rw [if_pos (by omega), if_pos (by omega)]
  congr 1
  omega

/-- The low word of an entry stands behind its high word (R34). -/
theorem regAt_skLo (i : Fin 16) : regAt (0x104 + 8 * i.val) = .skLo (i.val + 1) := by
  have hi := i.isLt
  unfold regAt
  rw [if_pos (by omega), if_neg (by omega)]
  congr 1
  omega

/-- The registers a write stores into while idle (R37). -/
def writableRegs : List Reg := [.padcfg, .keyHi, .keyLo, .keyLen, .msgLen, .blkHi, .blkLo]

/-- The offsets of `CMD` and of the writable registers (R21). -/
def writtenOffsets : List Word :=
  [0x004#32, 0x00C#32, 0x010#32, 0x014#32, 0x018#32, 0x01C#32, 0x024#32, 0x028#32]

/-- A write to any other register stores nothing (R36, R37). -/
theorem State.writeReg_of_not_mem (s : State) (w : Word) (r : Reg) (hr : r ∉ writableRegs) : s.writeReg w r = s := by
  cases r with
  | padcfg | keyHi | keyLo | keyLen | msgLen | blkHi | blkLo => exact absurd (by decide) hr
  | _ => rfl

/-- The register at an offset is of the SK window, reserved, or as the table of the map says (R21, R34, R36). -/
theorem regAt_cases (off : Nat) :
    (∃ i, regAt off = .skHi i) ∨ (∃ i, regAt off = .skLo i) ∨ regAt off = .reserved ∨
      (off, regAt off) ∈ regTable := by
  unfold regAt
  split
  · simp only
    split <;> simp
  · cases hl : regTable.lookup off with
    | none => simp
    | some r =>
      obtain ⟨l₁, l₂, htable, -⟩ := List.lookup_eq_some_iff.mp hl
      simp [htable]

/-- Only at `writtenOffsets` does the map name `CMD` or a writable register. -/
theorem mem_writtenOffsets (off : Word) (h : regAt off.toNat ∈ Reg.cmd :: writableRegs) : off ∈ writtenOffsets := by
  rw [← List.mem_map_of_injective (BitVec.toNat_injective)]
  obtain ⟨i, hi⟩ | ⟨i, hi⟩ | hi | hmem := regAt_cases off.toNat
  · simp [hi, writableRegs] at h
  · simp [hi, writableRegs] at h
  · simp [hi, writableRegs] at h
  · have htable : ∀ p ∈ regTable, p.2 ∈ Reg.cmd :: writableRegs → p.1 ∈ writtenOffsets.map BitVec.toNat := by decide
    exact htable _ hmem h

/-- The reserved ranges of the map (R36). -/
theorem regAt_reserved (off : Nat) (h : (0x034 ≤ off ∧ off < 0x100) ∨ (0x190 ≤ off ∧ off < 0x1000)) :
    regAt off = .reserved := by
  have htable : ∀ p ∈ regTable, p.1 < 0x034 ∨ (0x180 ≤ p.1 ∧ p.1 < 0x190) := by decide
  have hnone : regTable.lookup off = none := by
    rw [List.lookup_eq_none_iff]
    intro p hp
    have hoff := htable p hp
    simp only [bne_iff_ne]
    omega
  unfold regAt
  rw [if_neg (by omega), hnone]
  rfl

/-! ### Reads -/

/-- The host's record is nothing a read can return. -/
@[simp] theorem State.readTarget_recordRead (s : State) (v : Word) (g : Target) :
    (s.recordRead v).readTarget g = s.readTarget g := by
  cases g with
  | register r => cases r <;> rfl
  | buffer a n => rfl

/-- A read of a target records the value the target shows. -/
theorem busAccess_read (t : Access) (s : State) (g : Target) (hr : t.rw = .read)
    (hg : targetOf s.params.msgBytes t.off.toNat t.width = some g) :
    busAccess t s = .next (s.recordRead (s.readTarget g)) := by
  simp only [busAccess, hg, hr]

/-- Settles O10: what a read reaches shows the same value once the read is recorded. -/
theorem readsHaveNoSideEffect : Obligations.ReadsHaveNoSideEffect := by
  unfold Obligations.ReadsHaveNoSideEffect
  intro t s hr hwf
  obtain ⟨g, hg⟩ := targetOf_of_wf s.params t hwf
  refine ⟨s.readTarget g, busAccess_read t s g hr hg, ?_⟩
  simpa using busAccess_read t (s.recordRead (s.readTarget g)) g hr hg

/-- Entry `i + 1` of the subkey file stands at index `i` (R41, log 18). -/
theorem subkeyEntry_toList (sk : Vector Subkey 16) (i : Fin 16) : subkeyEntry sk.toList (i.val + 1) = sk[i.val] := by
  simp [subkeyEntry, List.getD_eq_getElem?_getD]

/-- A 32-bit read at an aligned offset of the register window. -/
theorem busAccess_rd32_at (n : Nat) (s : State) (r : Reg) (hlt : n < 0x1000) (hal : n % 4 = 0) (hr : regAt n = r) :
    busAccess (Access.rd32 (BitVec.ofNat 32 n)) s = .next (s.recordRead (s.readReg r)) := by
  have hn : (BitVec.ofNat 32 n).toNat = n := by rw [BitVec.toNat_ofNat, Nat.mod_eq_of_lt (by omega)]
  rw [busAccess_rd32 _ s r (by rw [hn, targetOf_register _ _ hlt hal, hr])]

/-- Settles O12, register by register. -/
theorem registerReadsReturnTheirFields : Obligations.RegisterReadsReturnTheirFields := by
  unfold Obligations.RegisterReadsReturnTheirFields
  intro s
  refine ⟨busAccess_rd32 _ s .id rfl, busAccess_rd32 _ s .cmd rfl, busAccess_rd32 _ s .status rfl,
    busAccess_rd32 _ s .padcfg rfl, busAccess_rd32 _ s .keyHi rfl, busAccess_rd32 _ s .keyLo rfl,
    busAccess_rd32 _ s .keyLen rfl, busAccess_rd32 _ s .msgLen rfl, busAccess_rd32 _ s .outLen rfl,
    busAccess_rd32 _ s .blkHi rfl, busAccess_rd32 _ s .blkLo rfl, busAccess_rd32 _ s .cap rfl,
    busAccess_rd32 _ s .blkIdx rfl, busAccess_rd32 _ s .dbgC rfl, busAccess_rd32 _ s .dbgD rfl,
    busAccess_rd32 _ s .dbgL rfl, busAccess_rd32 _ s .dbgR rfl, fun i => ?_⟩
  rw [← subkeyEntry_toList s.sk i]
  exact ⟨busAccess_rd32_at _ s _ (by omega) (by omega) (regAt_skHi i),
    busAccess_rd32_at _ s _ (by omega) (by omega) (regAt_skLo i)⟩

/-! ### Writes -/

/-- A 32-bit write to a register other than `CMD` while idle. -/
theorem busAccess_wr32_idle (off w : Word) (s : State) (r : Reg)
    (ht : targetOf s.params.msgBytes off.toNat 4 = some (.register r)) (hr : r ≠ .cmd) (hb : s.busy = false) :
    busAccess (Access.wr32 off w) s = .next (s.writeReg w r) := by
  rw [busAccess_wr32 off w s r ht]
  exact hostWrite_idle _ _ _ (by simpa using hr) hb

/-- `PADCFG` reads back the 18 bits a write stores (R26). -/
theorem PadCfg.toWord_ofWord (w : Word) : (PadCfg.ofWord w).toWord = w &&& 0x0003FFFF#32 := by
  have hmask : (0x0003FFFF#32) = (BitVec.allOnes 18).setWidth 32 := by decide
  have hmode : PadMode.bit (PadCfg.ofWord w).mode = BitVec.ofBool (w.getLsbD 17) := by
    simp only [PadCfg.ofWord]; cases w.getLsbD 17 <;> rfl
  apply BitVec.eq_of_getLsbD_eq
  intro i hi
  rw [hmask, BitVec.getLsbD_and, BitVec.getLsbD_setWidth, BitVec.getLsbD_allOnes]
  unfold PadCfg.toWord
  rw [hmode]
  refine BitVec.getLsbD_append.trans ?_
  simp only [BitVec.getLsbD_append, PadCfg.ofWord, BitVec.getLsbD_extractLsb', BitVec.getLsbD_ofBool]
  obtain h | ⟨h, h'⟩ | rfl | rfl | h : i < 8 ∨ (8 ≤ i ∧ i < 16) ∨ i = 16 ∨ i = 17 ∨ 18 ≤ i := by omega
  · simp [h, hi, show i < 18 by omega]
  · simp [h, show ¬i < 8 by omega, show i - 8 < 8 by omega, show i < 18 by omega, hi]
  · simp
  · simp
  · simp [show ¬i < 8 by omega, show ¬i - 8 < 8 by omega, show ¬i - 8 - 8 < 1 by omega,
      show ¬i - 8 - 8 - 1 < 1 by omega, show ¬i < 18 by omega]

/-- Settles O11: each write is that of its register, and PADCFG reads back what it stores. -/
theorem registerWritesStoreTheirFields : Obligations.RegisterWritesStoreTheirFields := by
  unfold Obligations.RegisterWritesStoreTheirFields
  intro s w hb
  exact ⟨busAccess_wr32_idle _ w s .padcfg rfl (by decide) hb, PadCfg.toWord_ofWord w,
    busAccess_wr32_idle _ w s .keyHi rfl (by decide) hb, busAccess_wr32_idle _ w s .keyLo rfl (by decide) hb,
    busAccess_wr32_idle _ w s .keyLen rfl (by decide) hb, busAccess_wr32_idle _ w s .msgLen rfl (by decide) hb,
    busAccess_wr32_idle _ w s .blkHi rfl (by decide) hb, busAccess_wr32_idle _ w s .blkLo rfl (by decide) hb⟩

/-- Settles O13: elsewhere the map names a register that stores nothing, or none. -/
theorem readOnlyAndReservedOffsetsIgnoreWrites : Obligations.ReadOnlyAndReservedOffsetsIgnoreWrites := by
  unfold Obligations.ReadOnlyAndReservedOffsetsIgnoreWrites
  constructor
  · intro s off w hb hlt hal hoff
    have hreg : regAt off.toNat ∉ Reg.cmd :: writableRegs := fun h => hoff (mem_writtenOffsets off h)
    rw [List.mem_cons, not_or] at hreg
    obtain ⟨hcmd, hro⟩ := hreg
    rw [busAccess_wr32_idle off w s _ (targetOf_register _ _ hlt hal) hcmd hb,
      State.writeReg_of_not_mem s w _ hro]
  · intro s off hal hrange
    rw [busAccess_rd32 off s _ (targetOf_register _ _ (by omega) hal), regAt_reserved _ hrange]
    rfl

end Sys2Proof.Machine
end

section
/-! PROOFS. The bus: which accesses fault, and what host accesses of MBUF store and return. -/

namespace Sys2Proof.Machine

/-! ### Faults -/

/-- A fault of an access is the bus fault, and the access is none the engine takes (R65). -/
theorem busAccess_eq_fault (t : Access) (s : State) (f : Fault) :
    busAccess t s = .fault f ↔ f = .hostBusFault ∧ t.wf s.params = false := by
  obtain ⟨hwf, hfault⟩ | ⟨hwf, u, hnext⟩ := busAccess_cases t s
  · simp [hfault, hwf]
  · simp [hnext, hwf]

/-- A host operation faults only by its access. -/
theorem hostMove_fault (s : State) (f : Fault) (h : hostMove s = .fault f) :
    ∃ t rest, s.host = .access t :: rest ∧ t.wf s.params = false := by
  unfold hostMove at h
  split at h
  case h_2 t rest hhost =>
    obtain ⟨-, hwf⟩ := (busAccess_eq_fault t { s with host := rest } f).mp h
    exact ⟨t, rest, hhost, hwf⟩
  all_goals cases h

/-- A step faults only by a host operation: no engine step fails (R221). -/
theorem step_fault (s : State) (f : Fault) (h : step s = .fault f) : hostMove s.takeTurn = .fault f := by
  unfold step transition at h
  split at h
  · cases h
  · exact h
  · cases h

/-- An access at or past the end of the window is not taken (R62). -/
theorem Access.not_wf_of_end_le (p : Params) (t : Access) (h : 0x1000 + p.msgBytes ≤ t.off.toNat) :
    t.wf p = false := by
  rw [← targetOf_eq_none, Option.eq_none_iff_forall_not_mem]
  intro g hg
  unfold targetOf at hg
  rw [if_neg (by omega)] at hg
  simp only [Option.mem_def, Option.ite_none_right_eq_some] at hg
  omega

/-- A bus cycle outside the window faults: it makes no access, or one that is not taken (R6, R62). -/
theorem busCycle_outside (b : BusCycle) (s : State)
    (h : b.addr < s.params.base ∨ s.params.base + 0x1000 + s.params.msgBytes ≤ b.addr) :
    busCycle b s = .fault .hostBusFault := by
  unfold busCycle
  cases hc : cycleAccess s.params b with
  | none => rfl
  | some t =>
    obtain ⟨haddr, -⟩ := cycleAccess_addr s.params b t hc
    exact (busAccess_eq_fault t s _).mpr ⟨rfl, Access.not_wf_of_end_le _ t (by omega)⟩

/-- Settles O8: the bus takes what `Access.wf` allows, and a step can fault only by the host's next access. -/
theorem busFaultsExactlyOnAccessesNotTaken : Obligations.BusFaultsExactlyOnAccessesNotTaken := by
  unfold Obligations.BusFaultsExactlyOnAccessesNotTaken
  refine ⟨fun t s => by simp [busAccess_eq_fault], fun s f h => ?_, fun t s => by simp [busCycle], busCycle_outside⟩
  simpa using hostMove_fault _ f (step_fault s f h)

/-! ### Bytes and values -/

/-- Byte `k` of the `n` bytes of a value, most significant first (R63). -/
theorem getElem?_bytesOf {w : Nat} (n : Nat) (v : BitVec w) (k : Nat) (hk : k < n) :
    (bytesOf n v)[k]? = some (v.extractLsb' (8 * (n - k) - 8) 8) := by
  simp [bytesOf, hk]

/-- The one byte a write of width 1 stores (R66). -/
theorem bytesOf_setWidth (b : Byte) : bytesOf 1 (b.setWidth 32 : Word) = [b] := by
  have hlow : (b.setWidth 32).extractLsb' 0 8 = b := BitVec.eq_of_toNat_eq (by simpa using b.isLt)
  simpa [bytesOf] using hlow

/-- A byte appended below a value. -/
theorem toNat_append_byte {n : Nat} (x : BitVec n) (b : Byte) : (x ++ b).toNat = x.toNat * 256 + b.toNat := by
  rw [BitVec.toNat_append, ← Nat.shiftLeft_add_eq_or_of_lt b.isLt, Nat.shiftLeft_eq]

/-- The value of one byte is its zero extension (R81). -/
theorem packBytes_singleton (b : Byte) : packBytes 32 [b] = b.setWidth 32 := by
  apply BitVec.eq_of_toNat_eq
  simp [packBytes]

/-- The value of four bytes, first byte most significant (R66). -/
theorem packBytes_four (b₀ b₁ b₂ b₃ : Byte) : packBytes 32 [b₀, b₁, b₂, b₃] = b₀ ++ b₁ ++ b₂ ++ b₃ := by
  apply BitVec.eq_of_toNat_eq
  have hlt := (b₀ ++ b₁ ++ b₂ ++ b₃).isLt
  simp only [toNat_append_byte] at hlt ⊢
  simpa [packBytes] using Nat.mod_eq_of_lt hlt

/-! ### Host accesses of MBUF -/

/-- Where an access of MBUF that the engine takes goes (R62, R64). -/
theorem targetOf_bufferOffset (p : Params) (a n : Nat) (hp : p.wf = true) (hn : n = 1 ∨ (n = 4 ∧ a % 4 = 0))
    (hle : a + n ≤ p.msgBytes) :
    targetOf p.msgBytes (BitVec.ofNat 32 (0x1000 + a)).toNat n = some (.buffer a n) := by
  simp only [Params.wf, Bool.and_eq_true, decide_eq_true_eq] at hp
  have hoff : (BitVec.ofNat 32 (0x1000 + a)).toNat = 0x1000 + a := by
    rw [BitVec.toNat_ofNat, Nat.mod_eq_of_lt (by omega)]
  simp [targetOf, hoff, hn, hle]

section
variable (t : Access) (s : State) (a n : Nat) (hw : t.rw = .write)
  (hg : targetOf s.params.msgBytes t.off.toNat t.width = some (.buffer a n))

include hw hg

/-- A write of MBUF while idle stores its bytes and changes nothing else (R66). -/
theorem busAccess_bufferWrite_idle (hb : s.busy = false) :
    busAccess t s = .next { s with mbuf := s.mbuf.writeBytes a (bytesOf n t.data) } := by
  simp only [busAccess, hg, hw]
  exact hostWrite_idle _ _ _ (by simp) hb

/-- A write of MBUF while busy only sets `OVR` (R257). -/
theorem busAccess_bufferWrite_busy (hb : s.busy = true) : busAccess t s = .next { s with ovr := true } := by
  simp only [busAccess, hg, hw]
  exact hostWrite_busy _ _ _ (by simp) hb

end

/-- What the `n` bytes of a value leave at each offset, written from `a` on (R63). -/
theorem Memory.read_writeBytes_bytesOf {w : Nat} (m : Memory) (a n : Nat) (v : BitVec w) (h : m.wf = true) :
    (∀ k, k < n → (m.writeBytes a (bytesOf n v)).read (a + k) = v.extractLsb' (8 * (n - k) - 8) 8) ∧
    ∀ a', a' < a ∨ a + n ≤ a' → (m.writeBytes a (bytesOf n v)).read a' = m.read a' := by
  constructor
  · intro k hk
    rw [Memory.read_writeBytes m a _ _ h, if_pos (by omega), Nat.add_sub_cancel_left, getElem?_bytesOf n v k hk]
    rfl
  · intro a' ha'
    rw [Memory.read_writeBytes m a _ _ h]
    split
    · rw [List.getElem?_eq_none (by simp only [length_bytesOf]; omega)]; rfl
    · rfl

/-- Settles O15: an access inside the capacity reaches the bytes it names, and they are packed and unpacked most
significant first. -/
theorem hostBufferAccessesAreBigEndian : Obligations.HostBufferAccessesAreBigEndian := by
  unfold Obligations.HostBufferAccessesAreBigEndian
  intro s a hp hm
  constructor
  · intro ha
    have hg := targetOf_bufferOffset s.params a 1 hp (.inl rfl) ha
    refine ⟨fun b hb => ⟨_, busAccess_bufferWrite_idle _ s a 1 rfl hg hb, fun a' => ?_⟩,
      fun b hb => busAccess_bufferWrite_busy _ s a 1 rfl hg hb, ?_⟩
    · simp only [Access.wr8, bytesOf_setWidth, Memory.writeBytes]
      exact Memory.read_write s.mbuf a a' b hm
    · rw [busAccess_read _ s _ rfl hg, ← packBytes_singleton]
      rfl
  · intro hal hle
    have hg := targetOf_bufferOffset s.params a 4 hp (.inr ⟨rfl, hal⟩) hle
    refine ⟨fun w hb => ⟨_, busAccess_bufferWrite_idle _ s a 4 rfl hg hb, ?_⟩,
      fun w hb => busAccess_bufferWrite_busy _ s a 4 rfl hg hb, ?_⟩
    · obtain ⟨hbyte, hother⟩ := Memory.read_writeBytes_bytesOf s.mbuf a 4 w hm
      exact ⟨hbyte 0 (by decide), hbyte 1 (by decide), hbyte 2 (by decide), hbyte 3 (by decide), hother⟩
    · rw [busAccess_read _ s _ rfl hg, ← packBytes_four]
      rfl

end Sys2Proof.Machine
end

section
/-! PROOFS. MBUF and the engine: where a STORE step puts its block, what a LOAD step reads, and what else can change a
byte. -/

namespace Sys2Proof.Machine

/-! ### Where the engine stores -/

/-- What MBUF is after an engine step: as before, but for the STORE step of a command other than BLOCK (R146). -/
theorem State.engineStep_mbuf_cases (s : State) :
    s.engineStep.mbuf = s.mbuf ∨
    (s.phase = .store ∧ s.curOp ≠ .block ∧
      s.engineStep.mbuf = s.mbuf.writeBlock (8 * s.blkIdx.toNat) (blockOf (s.l, s.r))) := by
  cases hp : s.phase with
  | idle => rw [State.engineStep_idle s hp]; exact .inl rfl
  | ks =>
    rw [State.engineStep_ks s hp]
    simp only [State.ksStep]
    split <;> simp
  | load => rw [State.engineStep_load s hp]; exact .inl rfl
  | rnd => rw [State.engineStep_rnd s hp]; exact .inl rfl
  | store =>
    rw [State.engineStep_store s hp]
    by_cases hop : s.curOp = .block <;> simp [State.storeStep, State.storeBlock, hop]

/-- `OUT_LEN` at Finish, by the command (R197). -/
theorem State.finishedLength_eq (s : State) :
    s.finishedLength = if s.curOp = .crypt then BitVec.ofNat 32 (8 * s.nblk.toNat)
      else if s.curOp = .block then 8#32 else 0#32 := by
  unfold State.finishedLength
  cases s.curOp <;> rfl

/-- What the block of a STORE step leaves in MBUF (R68). -/
theorem Memory.read_writeBlock_bytes (m : Memory) (a : Nat) (z : Block) (h : m.wf = true) :
    (∀ k, k < 8 → (m.writeBlock a z).read (a + k) = z.extractLsb' (56 - 8 * k) 8) ∧
    ∀ a', a' < a ∨ a + 8 ≤ a' → (m.writeBlock a z).read a' = m.read a' := by
  obtain ⟨hbyte, hother⟩ := Memory.read_writeBytes_bytesOf m a 8 z h
  refine ⟨fun k hk => ?_, hother⟩
  rw [show 56 - 8 * k = 8 * (8 - k) - 8 by omega]
  exact hbyte k hk

/-- Settles O33: the block is put where `storeBlock` puts it, and `endStore` counts it. -/
theorem storeStepWritesTheBlock : Obligations.StoreStepWritesTheBlock := by
  unfold Obligations.StoreStepWritesTheBlock
  intro s hp hm
  simp only [State.engineStep_store s hp, State.storeStep]
  refine ⟨by simp, fun hop => ?_, fun hop => ?_, fun hend => ?_, fun hgo => ?_⟩
  · simp [State.storeBlock, hop, blockOf]
  · obtain ⟨hbyte, hother⟩ := Memory.read_writeBlock_bytes s.mbuf (8 * s.blkIdx.toNat) (blockOf (s.l, s.r)) hm
    simp only [State.endStore_blk, State.endStore_mbuf, State.storeBlock, if_neg hop, true_and]
    exact ⟨hbyte, hother⟩
  · rw [State.endStore_finish _ (by simpa using hend)]
    exact ⟨rfl, rfl, rfl, rfl, State.finishedLength_eq _⟩
  · rw [State.endStore_load _ (by simpa using hgo)]
    exact ⟨rfl, rfl, rfl, rfl, rfl⟩

/-! ### Where the engine loads -/

/-- A padded block is the same for every memory that agrees on its eight bytes (R166). -/
theorem State.paddedBlock_congr (s : State) (m : Memory) (b : Nat)
    (h : ∀ k, k < 8 → m.read (8 * b + k) = s.mbuf.read (8 * b + k)) :
    State.paddedBlock { s with mbuf := m } b = s.paddedBlock b := by
  unfold State.paddedBlock
  congr 1
  refine List.map_congr_left fun k hk => ?_
  simp only [State.streamByte, h k (List.mem_range.mp hk)]

/-- Settles O54: in LOAD and STORE the invariant puts block `BLK_IDX` inside the capacity. -/
theorem engineStaysInsideTheBuffer : Obligations.EngineStaysInsideTheBuffer := by
  unfold Obligations.EngineStaysInsideTheBuffer
  intro s hinv
  obtain ⟨-, ⟨hwf, -⟩, -, ⟨-, -, -, -, -, hblock⟩, ⟨hfit, -⟩⟩ := hinv
  constructor
  · intro a ha
    obtain hsame | ⟨hp, -, hwrite⟩ := s.engineStep_mbuf_cases
    · rw [hsame]
    · obtain ⟨-, hlt⟩ := hblock (.inr (.inr hp))
      obtain ⟨-, hother⟩ := Memory.read_writeBlock_bytes s.mbuf (8 * s.blkIdx.toNat) (blockOf (s.l, s.r)) hwf
      rw [hwrite, hother a (by omega)]
  · intro hp m hagree
    obtain ⟨-, hlt⟩ := hblock (.inl hp)
    have hpadded := s.paddedBlock_congr m s.blkIdx.toNat fun k hk => hagree _ (by omega)
    unfold State.loadOperand
    cases hop : s.curOp with
    | block => rfl
    | _ => exact hpadded

/-! ### What changes MBUF -/

/-- A register write stores nothing in MBUF. -/
@[simp] theorem State.writeReg_mbuf (s : State) (w : Word) (r : Reg) : (s.writeReg w r).mbuf = s.mbuf := by
  cases r <;> rfl

/-- A taken write changes MBUF only while idle and only behind the register window (R61, R66). -/
theorem WriteEffect.mbuf {s u : State} {t : Access} (e : WriteEffect s t u) :
    u.mbuf = s.mbuf ∨ (s.busy = false ∧ 0x1000 ≤ t.off.toNat) := by
  cases e with
  | ignored | cleared | completed | failed | started => exact .inl (by simp)
  | stored g hb hg ht =>
    cases g with
    | register r => exact .inl (State.writeReg_mbuf s t.data r)
    | buffer a n =>
      obtain ⟨hoff, -⟩ := targetOf_buffer _ _ _ _ _ ht
      exact .inr ⟨hb, by omega⟩

/-- A host operation changes MBUF only by a write to it while idle. -/
theorem hostMove_mbuf (s u : State) (h : hostMove s = .next u) :
    u.mbuf = s.mbuf ∨
    (s.busy = false ∧ ∃ t rest, s.host = .access t :: rest ∧ t.rw = .write ∧ 0x1000 ≤ t.off.toNat) := by
  obtain ⟨-, rfl⟩ | ⟨t, rest, hhost, hbus⟩ | ⟨host', v, rfl, -⟩ := hostMove_effect s u h
  · exact .inl rfl
  · obtain ⟨-, ⟨-, v, rfl⟩ | ⟨hw, e⟩⟩ := busAccess_effect t _ u hbus
    · exact .inl rfl
    · exact e.mbuf.imp_right fun ⟨hb, hoff⟩ => ⟨hb, t, rest, hhost, hw, hoff⟩
  · exact .inl rfl

/-- Settles O55: holding changes no byte, and a host operation and an engine step each have one way to change one. -/
theorem bufferChangesOnlyByStoreOrHostWrite : Obligations.BufferChangesOnlyByStoreOrHostWrite := by
  unfold Obligations.BufferChangesOnlyByStoreOrHostWrite
  intro s t a hstep hne
  have hmbuf : t.mbuf ≠ s.mbuf := fun h => hne (by rw [h])
  obtain ⟨-, -, rfl⟩ | ⟨-, hmove⟩ | ⟨hb, rfl⟩ := step_effect s t hstep
  · exact absurd rfl hmbuf
  · right
    simpa [hmbuf] using hostMove_mbuf s.takeTurn t hmove
  · left
    obtain hsame | ⟨hp, hop, -⟩ := s.takeTurn.engineStep_mbuf_cases
    · exact absurd (by simpa using hsame) hmbuf
    · exact ⟨hb, by simpa using hp, by simpa using hop⟩

end Sys2Proof.Machine
end

section
/-! PROOFS. The encoding: the decoder takes exactly the words of the seven commands, and those are the words whose
fields are legal. -/

namespace Sys2Proof

/-! ### The words of the commands -/

/-- A command's word decodes to it (R80, R83). -/
@[simp] theorem decode_encode (i : Instr) : decode (encode i) = .ok i := by
  cases i <;> decide

/-- A word that decodes is the word of its command: all 32 bits are matched (R86). -/
theorem eq_encode_of_decode {w : Word} {i : Instr} (h : decode w = .ok i) : w = encode i := by
  unfold decode at h
  iterate 7 split at h; · cases h; assumption
  cases h

theorem decode_eq_ok_iff (w : Word) (i : Instr) : decode w = .ok i ↔ w = encode i :=
  ⟨eq_encode_of_decode, fun h => h ▸ decode_encode i⟩

/-- Settles O1: the seven words are those of the encoder. -/
theorem decodeReadsExactlyTheSevenWords : Obligations.DecodeReadsExactlyTheSevenWords := by
  unfold Obligations.DecodeReadsExactlyTheSevenWords
  intro w i
  rw [decode_eq_ok_iff]
  cases i <;> simp [encode, Instr.dir, Instr.op]

/-- Settles O3: the table's 32 bits are the word's. -/
theorem encodedCommandDecodesToItself : Obligations.EncodedCommandDecodesToItself := by
  unfold Obligations.EncodedCommandDecodesToItself
  intro i
  exact ⟨decode_encode i, by simp [decodeTableWord, (encode i).isLt, Except.toOption]⟩

/-! ### Legal words -/

/-- The word of every command keeps the field rules. -/
theorem wordLegal_encode : ∀ i : Instr, wordLegal (encode i) = true
  | .nop => Laws.LegalWord.nop.left
  | .keygen => Laws.LegalWord.keygen.left
  | .blockE => Laws.LegalWord.blockE.left
  | .blockD => Laws.LegalWord.blockD.left
  | .cryptE => Laws.LegalWord.cryptE.left
  | .cryptD => Laws.LegalWord.cryptD.left
  | .clear => Laws.LegalWord.clear.left

/-- A word is its three fields (R80). -/
theorem fields_append (w : Word) : rsvField w ++ BitVec.ofBool (dirField w) ++ opField w = w := by
  apply BitVec.eq_of_getLsbD_eq
  intro i hi
  refine BitVec.getLsbD_append.trans ?_
  simp only [BitVec.getLsbD_append, rsvField, dirField, opField, BitVec.getLsbD_extractLsb', BitVec.getLsbD_ofBool]
  obtain h | rfl | h : i < 4 ∨ i = 4 ∨ 5 ≤ i := by omega
  · simp [h]
  · simp
  · have hrsv : 5 + (i - 4 - 1) = i := by omega
    simp [show ¬i < 4 by omega, show ¬i - 4 < 1 by omega, show i - 4 - 1 < 27 by omega, hrsv]

/-- The field rules of R80, as a statement. -/
theorem wordLegal_iff (w : Word) :
    wordLegal w = true ↔ rsvField w = 0#27 ∧ opField w ∈ [0#4, 1#4, 2#4, 3#4, 15#4] ∧
      (dirField w = true → opField w ∈ [2#4, 3#4]) := by
  have hfields : wordLegal w = ((rsvField w == 0#27) && [0#4, 1#4, 2#4, 3#4, 15#4].contains (opField w) &&
    (!dirField w || [2#4, 3#4].contains (opField w))) := rfl
  rw [hfields]
  cases dirField w <;> simp [and_assoc]

/-- Legal fields are those of a command: there is one word for each legal pair of `DIR` and `OP`. -/
theorem exists_encode_of_wordLegal {w : Word} (h : wordLegal w = true) : ∃ i, w = encode i := by
  obtain ⟨hrsv, hop, hdir⟩ := (wordLegal_iff w).mp h
  rw [← fields_append w, hrsv]
  cases hd : dirField w with
  | false =>
    simp only [List.mem_cons, List.not_mem_nil, or_false] at hop
    obtain hop | hop | hop | hop | hop := hop <;> rw [hop]
    · exact ⟨.nop, rfl⟩
    · exact ⟨.keygen, rfl⟩
    · exact ⟨.blockE, rfl⟩
    · exact ⟨.cryptE, rfl⟩
    · exact ⟨.clear, rfl⟩
  | true =>
    have hop := hdir hd
    simp only [List.mem_cons, List.not_mem_nil, or_false] at hop
    obtain hop | hop := hop <;> rw [hop]
    · exact ⟨.blockD, rfl⟩
    · exact ⟨.cryptD, rfl⟩

/-- A word decodes exactly when its fields are legal (R80, R86). -/
theorem exists_decode_iff_wordLegal (w : Word) : (∃ i, decode w = .ok i) ↔ wordLegal w = true := by
  simp only [decode_eq_ok_iff]
  exact ⟨fun ⟨i, h⟩ => h ▸ wordLegal_encode i, exists_encode_of_wordLegal⟩

/-- The decoder refuses only by the last line of R86. -/
theorem decode_error_reason {w : Word} {r : IllegalWord} (h : decode w = .error r) : r = illegalReason w := by
  unfold decode at h
  iterate 7 split at h; · cases h
  injection h with h
  exact h.symm

/-- A word with illegal fields is refused with its group (R84). -/
theorem decode_of_not_wordLegal {w : Word} (h : wordLegal w = false) : decode w = .error (illegalReason w) := by
  cases hd : decode w with
  | ok i => rw [(exists_decode_iff_wordLegal w).mp ⟨i, hd⟩] at h; cases h
  | error r => rw [decode_error_reason hd]

/-- Settles O2: each group of R84 breaks a field rule, and names itself. -/
theorem decodeAcceptsExactlyTheLegalWords : Obligations.DecodeAcceptsExactlyTheLegalWords := by
  unfold Obligations.DecodeAcceptsExactlyTheLegalWords
  intro w
  have hlegal := wordLegal_iff w
  refine ⟨exists_decode_iff_wordLegal w, fun hrsv => ?_, fun hrsv hlo hhi => ?_, fun hrsv hdir hop => ?_⟩
  · rw [decode_of_not_wordLegal (by simp [← Bool.not_eq_true, hlegal, hrsv]), illegalReason, if_pos hrsv]
  · have hop : opField w ∉ [0#4, 1#4, 2#4, 3#4, 15#4] := by
      intro hmem
      have hout : ∀ o ∈ [0#4, 1#4, 2#4, 3#4, 15#4], o.toNat < 4 ∨ 14 < o.toNat := by decide
      have := hout _ hmem
      omega
    rw [decode_of_not_wordLegal (by simp only [← Bool.not_eq_true, hlegal, hop]; simp), illegalReason,
      if_neg (by simpa using hrsv), if_pos ⟨hlo, hhi⟩]
  · have hout : opField w ∉ [2#4, 3#4] ∧ ¬(4 ≤ (opField w).toNat ∧ (opField w).toNat ≤ 14) := by
      obtain h | h | h := hop <;> rw [h] <;> decide
    rw [decode_of_not_wordLegal (by simp only [← Bool.not_eq_true, hlegal, hdir, hout.1]; simp), illegalReason,
      if_neg (by simpa using hrsv), if_neg hout.2]

end Sys2Proof

namespace Sys2Proof.Machine

/-! ### The presentation of a word -/

/-- Where the host moves, the step is its operation (R70). -/
theorem step_of_nextAgent_host (s : State) (h : nextAgent s = some .host) : step s = hostMove s.takeTurn := by
  unfold step transition
  rw [h]

/-- The next turn of a state made to run one word is the host's, idle or busy (log 5). -/
theorem nextAgent_withFetchWord (s : State) (nbits w : Nat) : nextAgent (s.withFetchWord nbits w) = some .host := by
  cases hb : s.busy <;> simp [nextAgent, State.withFetchWord, hb]

/-- That turn is the one `withFetchWord` adds. -/
theorem takeTurn_withFetchWord (s : State) (nbits w : Nat) :
    (s.withFetchWord nbits w).takeTurn =
      { s with host := .access (Access.command (BitVec.ofNat 32 (w % 2 ^ nbits))) :: s.host } := by
  cases hb : s.busy <;> simp [State.takeTurn, State.withFetchWord, hb]

/-- The next step of a state made to run one word presents that word, idle or busy (log 5). -/
theorem step_withFetchWord (s : State) (w : Word) : step (s.withFetchWord 32 w.toNat) = commandWrite w s := by
  have hw : BitVec.ofNat 32 (w.toNat % 2 ^ 32) = w := by
    rw [Nat.mod_eq_of_lt w.isLt, BitVec.ofNat_toNat, BitVec.setWidth_eq]
  rw [step_of_nextAgent_host _ (nextAgent_withFetchWord s 32 w.toNat), takeTurn_withFetchWord, hw]
  exact busAccess_command w s

/-- A write to `CMD` of a word with illegal fields (R84, R190, R257). -/
theorem commandWrite_of_not_wordLegal {w : Word} (s : State) (h : wordLegal w = false) :
    commandWrite w s = .next (s.unlessBusy State.issueIllegal) := by
  simp only [commandWrite, decode_of_not_wordLegal h]

/-- Settles O6: the word is presented by the very next step, and none of the seven commands takes it. -/
theorem illegalWordFailsIdleAndIsIgnoredBusy : Obligations.IllegalWordFailsIdleAndIsIgnoredBusy := by
  unfold Obligations.IllegalWordFailsIdleAndIsIgnoredBusy
  intro s w h
  rw [step_withFetchWord, commandWrite_of_not_wordLegal s h]
  rfl

end Sys2Proof.Machine
end

section
/-! PROOFS. The host's pseudo-instructions, run on an idle engine: what each leaves, and that nothing else changes. -/

namespace Sys2Proof.Machine

/-! ### Runs of an idle engine's host -/

/-- A run goes on from where its first part ends. -/
theorem core_run_add (M : Host.Core) (m n : Nat) (s t : M.State) (h : M.run m s = .next t) :
    M.run (m + n) s = M.run n t := by
  induction m generalizing s with
  | zero =>
    injection h with h
    rw [Nat.zero_add, h]
  | succ m ih =>
    rw [Nat.add_right_comm]
    simp only [Host.Core.run] at h ⊢
    split at h
    · exact ih _ h
    · cases h
    · cases h

section
variable (s : State) (rest : List HostOp) (hb : s.busy = false)

include hb

/-- While idle the host moves, and no turn is used up (R70). -/
theorem step_idle (op : HostOp) :
    step { s with host := op :: rest } = hostMove { s with host := op :: rest } := by
  simp [step, transition, nextAgent, State.takeTurn, hb]

/-- The register writes of an idle engine's host, one after the other. -/
theorem run_wr32 (n : Nat) (off w : Word) (r : Reg) (hr : r ≠ .cmd)
    (ht : targetOf s.params.msgBytes off.toNat 4 = some (.register r)) :
    Host.Core.run Sys2Proof.core (n + 1) { s with host := .access (Access.wr32 off w) :: rest } =
      Host.Core.run Sys2Proof.core n (State.writeReg { s with host := rest } w r) := by
  refine run_next n _ _ ?_
  rw [step_idle s rest hb]
  exact busAccess_wr32_idle off w { s with host := rest } r ht hr hb

end

/-! ### Keys -/

/-- Two words side by side are the packing of the bytes of both (R63). -/
theorem packBytes_append (xs ys : List Byte) (hx : xs.length = 4) (hy : ys.length = 4) :
    (packBytes 32 xs ++ packBytes 32 ys : Block) = packBytes 64 (xs ++ ys) := by
  have hlt : ∀ bs : List Byte, bs.length = 4 → bs.foldl (fun x b => x * 256 + b.toNat) 0 < 2 ^ 32 := by
    intro bs hl
    simpa [hl] using foldl_bytes_lt bs
  have h1 := hlt xs hx
  have h2 := hlt ys hy
  apply BitVec.eq_of_toNat_eq
  refine (BitVec.toNat_append ..).trans ?_
  simp only [packBytes, BitVec.toNat_ofNat, List.foldl_append]
  rw [foldl_bytes ys (xs.foldl _ 0), hy, Nat.mod_eq_of_lt h1, Nat.mod_eq_of_lt h2, ← Nat.shiftLeft_add_eq_or_of_lt h2,
    Nat.shiftLeft_eq]
  omega

/-- The bytes `LDKEY` packs: the first eight, with 0 for those the key does not have (log 14). -/
theorem keyBytes_append (k : List Byte) : keyBytes k 0 ++ keyBytes k 4 = (k ++ List.replicate 8 0#8).take 8 := by
  have hbytes : keyBytes k 0 ++ keyBytes k 4 = (List.range 8).map fun j => k.getD j 0#8 := by
    simp [keyBytes, List.range_succ]
  rw [hbytes]
  refine List.ext_getElem (by simp) fun i h1 h2 => ?_
  have hi : i < 8 := by simpa using h1
  by_cases hk : i < k.length
  · simp [hk]
  · rw [List.getElem_take, List.getElem_append_right (by omega)]
    simp [hk, -List.reduceReplicate]

/-- What `LDKEY` leaves (R88, log 14). -/
def State.putKey (s : State) (k : List Byte) : State :=
  { s with key := packBytes 64 ((k ++ List.replicate 8 0#8).take 8), keyLen := BitVec.ofNat 8 (min k.length 255) }

theorem run_ldkey (s : State) (k : List Byte) (rest : List HostOp) (hb : s.busy = false) :
    Host.Core.run Sys2Proof.core 3 { s with host := ldkeyOps k ++ rest } = .next { s.putKey k with host := rest } := by
  have hlen : (BitVec.ofNat 32 (min k.length 255)).extractLsb' 0 8 = BitVec.ofNat 8 (min k.length 255) := by
    apply BitVec.eq_of_toNat_eq
    simp
  rw [State.putKey, ldkeyOps, ← keyBytes_append, ← packBytes_append _ _ (by simp [keyBytes]) (by simp [keyBytes])]
  let s₁ := s.writeReg (packBytes 32 (keyBytes k 0)) .keyHi
  let s₂ := s₁.writeReg (packBytes 32 (keyBytes k 4)) .keyLo
  refine (run_wr32 s _ hb 2 0x010#32 _ .keyHi (by decide) rfl).trans ?_
  refine (run_wr32 s₁ _ hb 1 0x014#32 _ .keyLo (by decide) rfl).trans ?_
  refine (run_wr32 s₂ rest hb 0 0x018#32 _ .keyLen (by decide) rfl).trans ?_
  simp [s₁, s₂, Host.Core.run, State.writeReg, hlen]

/-! ### Pad settings -/

/-- What a word stores in `PADCFG`, by its value (R26). -/
theorem PadCfg.ofWord_eq (w : Word) (p : PadCfg)
    (h : w.toNat = p.byte.toNat + 2 ^ 8 * p.len.toNat + 2 ^ 16 * p.present.toNat + 2 ^ 17 * p.mode.bit.toNat) :
    PadCfg.ofWord w = p := by
  obtain ⟨byte, len, present, mode⟩ := p
  simp only at h
  have hbyte := byte.isLt
  have hlen := len.isLt
  have hbit : ∀ i, w.getLsbD i = decide (w.toNat / 2 ^ i % 2 = 1) := fun i => Nat.testBit_eq_decide_div_mod_eq
  have hpresent : present.toNat ≤ 1 := Bool.toNat_le _
  have hmode := mode.bit.isLt
  simp only [PadCfg.ofWord, PadCfg.mk.injEq, hbit]
  refine ⟨BitVec.eq_of_toNat_eq ?_, BitVec.eq_of_toNat_eq ?_, ?_, ?_⟩
  · simp only [BitVec.extractLsb'_toNat, Nat.shiftRight_eq_div_pow]; omega
  · simp only [BitVec.extractLsb'_toNat, Nat.shiftRight_eq_div_pow]; omega
  · cases present with
    | false => rw [Bool.toNat_false] at h; exact decide_eq_false (by omega)
    | true => rw [Bool.toNat_true] at h; exact decide_eq_true (by omega)
  · cases mode with
    | fill =>
      rw [show PadMode.fill.bit.toNat = 0 from rfl] at h
      exact if_neg (by rw [decide_eq_true_eq]; omega)
    | pkcs7 =>
      rw [show PadMode.pkcs7.bit.toNat = 1 from rfl] at h
      exact if_pos (decide_eq_true (by omega))

/-- What `PAD` leaves (R88). -/
def State.putPad (s : State) (p : PadArg) : State := { s with padcfg := PadCfg.ofWord (padWord p) }

theorem run_pad (s : State) (p : PadArg) (rest : List HostOp) (hb : s.busy = false) :
    Host.Core.run Sys2Proof.core 1 { s with host := padOps p ++ rest } = .next { s.putPad p with host := rest } :=
  run_wr32 s rest hb 0 0x00C#32 (padWord p) .padcfg (by decide) rfl

theorem ofWord_padWord_fill (b : Byte) :
    PadCfg.ofWord (padWord (.fill b)) = { byte := b, len := 1#8, present := true, mode := .fill } := by
  apply PadCfg.ofWord_eq
  change (0x00010100#32 + b.setWidth 32).toNat = b.toNat + 2 ^ 8 * 1 + 2 ^ 16 * 1 + 2 ^ 17 * 0
  bv_omega

theorem ofWord_padWord_absent :
    PadCfg.ofWord (padWord .absent) = { byte := 0#8, len := 0#8, present := false, mode := .fill } := by decide

theorem ofWord_padWord_pkcs7 :
    PadCfg.ofWord (padWord .pkcs7) = { byte := 0#8, len := 0#8, present := false, mode := .pkcs7 } := by decide

theorem ofWord_padWord_bad (len : Byte) :
    PadCfg.ofWord (padWord (.bad len)) = { byte := 0#8, len := len, present := true, mode := .fill } := by
  apply PadCfg.ofWord_eq
  change (0x00010000#32 + len.setWidth 32 * 0x100#32).toNat = 0 + 2 ^ 8 * len.toNat + 2 ^ 16 * 1 + 2 ^ 17 * 0
  bv_omega

/-! ### The length passed on, and the check after a stage -/

/-- `NEXT`: the read of `OUT_LEN` and the write of `MSG_LEN` (R88). -/
theorem run_feedLength (s : State) (rest : List HostOp) (hb : s.busy = false) :
    Host.Core.run Sys2Proof.core 2 { s with host := .feedLength :: rest } =
      .next { s with msgLen := s.outLen, readLog := s.outLen :: s.readLog, host := rest } := by
  refine (run_next 1 _ _ (step_idle s rest hb .feedLength)).trans ?_
  exact run_wr32 (s.recordRead s.outLen) rest hb 0 0x01C#32 s.outLen .msgLen (by decide) rfl

/-- The check after a stage (spec/44_commands.md section 3, log 12). -/
theorem run_stopIfError (s : State) (n : Nat) (rest : List HostOp) (hb : s.busy = false) :
    Host.Core.run Sys2Proof.core 1 { s with host := .stopIfError n :: rest } =
      .next { s with host := if s.err then rest.drop n else rest, readLog := s.statusWord :: s.readLog } := by
  obtain ⟨-, -, -, -, -, -, -, herr, -, -⟩ := s.statusWord_fields
  have hhost : (if s.err then rest.drop n else rest) = if s.statusWord.getLsbD 2 then rest.drop n else rest := by
    rw [getLsbD_of_extractLsb'_eq herr]
  rw [hhost]
  exact run_next 0 _ _ (step_idle s rest hb (.stopIfError n))

/-- `PAD` as a program of its own, by the setting its word stores. -/
theorem run_withPseudo_pad (s : State) (p : PadArg) (c : PadCfg) (hc : PadCfg.ofWord (padWord p) = c)
    (hb : s.busy = false) :
    Host.Core.run Sys2Proof.core 1 (s.withPseudo (.pad p)) = .next { s with padcfg := c } := by
  rw [← hc]
  exact run_pad s p s.host hb

/-- Settles O47: each runs as its expansion, register write by register write. -/
theorem ldkeyPadAndNextWriteTheirRegisters : Obligations.LdkeyPadAndNextWriteTheirRegisters := by
  unfold Obligations.LdkeyPadAndNextWriteTheirRegisters
  refine ⟨fun s k hb => run_ldkey s k s.host hb, fun s hb => ⟨fun b => ?_, ?_, fun len => ?_, ?_⟩,
    fun s hb => run_feedLength s s.host hb, fun s n hb => run_stopIfError s n s.host hb⟩
  · exact run_withPseudo_pad s _ _ (ofWord_padWord_fill b) hb
  · exact run_withPseudo_pad s _ _ ofWord_padWord_absent hb
  · exact run_withPseudo_pad s _ _ (ofWord_padWord_bad len) hb
  · exact run_withPseudo_pad s _ _ ofWord_padWord_pkcs7 hb

/-! ### Messages -/

/-- The bytes at an offset where bytes were written (R66). -/
theorem Memory.readBytes_writeBytes (m : Memory) (a : Nat) (bs : List Byte) (h : m.wf = true) :
    (m.writeBytes a bs).readBytes a bs.length = bs := by
  refine List.ext_getElem (by simp) fun k h1 h2 => ?_
  rw [Memory.getElem_readBytes, Memory.read_writeBytes m a bs _ h]
  simp [h2]

/-- A byte behind those written is as before. -/
theorem Memory.read_writeBytes_after (m : Memory) (a : Nat) (bs : List Byte) (a' : Nat) (h : m.wf = true)
    (ha : a + bs.length ≤ a') : (m.writeBytes a bs).read a' = m.read a' := by
  rw [Memory.read_writeBytes m a bs a' h, if_pos (by omega), List.getElem?_eq_none (by omega)]
  rfl

/-- The `WR8` writes of a message, one step for each byte (R66, R88). -/
theorem run_messageWrites (s : State) (a : Nat) (m : List Byte) (rest : List HostOp) (hp : s.params.wf = true)
    (hb : s.busy = false) (hfit : a + m.length ≤ s.params.msgBytes) :
    Host.Core.run Sys2Proof.core m.length { s with host := messageWrites a m ++ rest } =
      .next { s with mbuf := s.mbuf.writeBytes a m, host := rest } := by
  induction m generalizing s a with
  | nil => rfl
  | cons b m ih =>
    rw [List.length_cons] at hfit
    have hg := targetOf_bufferOffset s.params a 1 hp (.inl rfl) (by omega)
    have hstep : step { s with host := messageWrites a (b :: m) ++ rest } =
        .next { s with mbuf := s.mbuf.write a b, host := messageWrites (a + 1) m ++ rest } := by
      refine (step_idle s _ hb _).trans ?_
      refine (busAccess_bufferWrite_idle (Access.wr8 (BitVec.ofNat 32 (0x1000 + a)) b)
        { s with host := messageWrites (a + 1) m ++ rest } a 1 rfl hg hb).trans ?_
      simp only [Access.wr8, bytesOf_setWidth, Memory.writeBytes]
    refine (run_next m.length _ _ hstep).trans ?_
    exact ih { s with mbuf := s.mbuf.write a b } (a + 1) hp hb (by simp only; omega)

/-- What `LDMSG` leaves (R88). -/
def State.putMessage (s : State) (m : List Byte) : State :=
  { s with mbuf := s.mbuf.writeBytes 0 m, msgLen := BitVec.ofNat 32 m.length }

theorem run_ldmsg (s : State) (m : List Byte) (rest : List HostOp) (hp : s.params.wf = true) (hb : s.busy = false)
    (hfit : m.length ≤ s.params.msgBytes) :
    Host.Core.run Sys2Proof.core (m.length + 1) { s with host := ldmsgOps m ++ rest } =
      .next { s.putMessage m with host := rest } := by
  rw [ldmsgOps, List.append_assoc]
  refine (core_run_add _ m.length 1 _ _ (run_messageWrites s 0 m _ hp hb (by omega))).trans ?_
  exact run_wr32 { s with mbuf := s.mbuf.writeBytes 0 m } rest hb 0 0x01C#32 _ .msgLen (by decide) rfl

/-- Settles O48: the message's writes, then that of its length. -/
theorem ldmsgFillsTheBuffer : Obligations.LdmsgFillsTheBuffer := by
  unfold Obligations.LdmsgFillsTheBuffer
  intro s m hp hm hb hfit
  refine ⟨_, run_ldmsg s m s.host hp hb (by simpa [Pseudo.wf] using hfit), rfl, Memory.wf_writeBytes s.mbuf 0 m hm,
    Memory.readBytes_writeBytes s.mbuf 0 m hm, fun a ha => ?_⟩
  exact Memory.read_writeBytes_after s.mbuf 0 m a hm (by omega)

end Sys2Proof.Machine
end

section
/-! PROOFS. A whole CRYPT by the engine's steps alone: from its issue to Finish, and that the blocks it stores are those
of the codec. -/

namespace Sys2Proof.Machine

/-! ### The blocks of a command -/

/-- Writing bytes in two parts. -/
theorem Memory.writeBytes_append (m : Memory) (a : Nat) (xs ys : List Byte) :
    m.writeBytes a (xs ++ ys) = (m.writeBytes a xs).writeBytes (a + xs.length) ys := by
  induction xs generalizing m a with
  | nil => rfl
  | cons x xs ih =>
    simp only [List.cons_append, Memory.writeBytes, ih, List.length_cons]
    congr 1
    omega

/-- What a command other than BLOCK loads (R143). -/
theorem State.loadOperand_of_ne_block (s : State) (h : s.curOp ≠ .block) :
    s.loadOperand = s.paddedBlock s.blkIdx.toNat := by
  unfold State.loadOperand
  split
  · contradiction
  · rfl

/-- Where a command other than BLOCK stores (R146). -/
theorem State.storeBlock_of_ne_block (s : State) (z : Block) (h : s.curOp ≠ .block) :
    s.storeBlock z = { s with mbuf := s.mbuf.writeBlock (8 * s.blkIdx.toNat) z } := by
  simp [State.storeBlock, h]

/-- The rounds of a block end in its transform (R140). -/
theorem blockOf_afterRounds (s : State) :
    blockOf ((s.afterRounds 16).l, (s.afterRounds 16).r) = des s.loadOperand s.sk.toList s.curDir := rfl

/-- The eighteen steps of a block of a command other than BLOCK (R143 to R148). -/
theorem iterate_block_of_ne_block (s : State) (hp : s.phase = .load) (hop : s.curOp ≠ .block) :
    Nat.iterate State.engineStep 18 s = State.endStore { s.afterRounds 16 with
      mbuf := s.mbuf.writeBlock (8 * s.blkIdx.toNat)
        (des (s.paddedBlock s.blkIdx.toNat) s.sk.toList s.curDir) } := by
  rw [iterate_block s hp, State.storeStep, State.storeBlock_of_ne_block _ _ (by exact hop),
    blockOf_afterRounds, State.loadOperand_of_ne_block s hop]
  rfl

/-- What the first `n` blocks of the padded stream are transformed to (R160, R166). -/
def State.streamBlocks (s : State) (n : Nat) : List Byte :=
  (List.range n).flatMap fun b => bytesOf 8 (des (s.paddedBlock b) s.sk.toList s.curDir)

theorem State.streamBlocks_succ (s : State) (n : Nat) :
    s.streamBlocks (n + 1) = s.streamBlocks n ++ bytesOf 8 (des (s.paddedBlock n) s.sk.toList s.curDir) := by
  simp [State.streamBlocks, List.range_succ]

@[simp] theorem State.length_streamBlocks (s : State) (n : Nat) : (s.streamBlocks n).length = 8 * n := by
  simp [State.streamBlocks, Nat.mul_comm]

/-- `t` is `s` after `b` of its blocks: they are counted and stored, and the rest of the state is that of `s` but for
`L`, `R` and `ROUND` (R143 to R146). -/
def BlocksDone (s : State) (b : Nat) (t : State) : Prop :=
  ∃ l r round, t = { s with
    l := l, r := r, round := round, blkIdx := BitVec.ofNat 32 b, mbuf := s.mbuf.writeBytes 0 (s.streamBlocks b) }

section
variable (s : State) (hp : s.phase = .load) (hop : s.curOp = .crypt) (hm : s.mbuf.wf = true)

include hp hop hm

/-- The eighteen steps of block `b`: it is read as it stood before the command, since no block before it reaches it. -/
theorem BlocksDone.block (b : Nat) (t : State) (h : BlocksDone s b t) (hb : b < s.nblk.toNat) :
    ∃ t', BlocksDone s (b + 1) t' ∧
      Nat.iterate State.engineStep 18 t = if b + 1 = s.nblk.toNat then t'.finish else t' := by
  obtain ⟨l, r, round, ht⟩ := h
  have hlt := s.nblk.isLt
  have hidx : t.blkIdx.toNat = b := by
    rw [ht]
    simp only [BitVec.toNat_ofNat]
    omega
  have hblock : t.paddedBlock b = s.paddedBlock b := by
    rw [ht]
    exact s.paddedBlock_congr _ b fun k _ => Memory.read_writeBytes_after s.mbuf 0 _ _ hm (by simp)
  have hstored : t.mbuf.writeBlock (8 * b) (des (t.paddedBlock b) t.sk.toList t.curDir) =
      s.mbuf.writeBytes 0 (s.streamBlocks (b + 1)) := by
    rw [hblock, State.streamBlocks_succ, Memory.writeBytes_append, State.length_streamBlocks, Nat.zero_add, ht]
    rfl
  have hnext : t.blkIdx + 1#32 = BitVec.ofNat 32 (b + 1) := by
    apply BitVec.eq_of_toNat_eq
    simp [hidx]
  have hend : t.blkIdx + 1#32 = t.nblk ↔ b + 1 = s.nblk.toNat := by
    rw [hnext, ← BitVec.toNat_inj, BitVec.toNat_ofNat, Nat.mod_eq_of_lt (by omega), ht]
  rw [iterate_block_of_ne_block t (by rw [ht]; exact hp) (by rw [ht]; simp [hop]), hidx, hstored]
  refine ⟨{ t.afterRounds 16 with
      phase := s.phase, blkIdx := t.blkIdx + 1#32, mbuf := s.mbuf.writeBytes 0 (s.streamBlocks (b + 1)) }, ?_, ?_⟩
  · rw [hnext, ht]
    exact ⟨_, _, _, rfl⟩
  · split
    · rename_i h
      exact State.endStore_finish { t.afterRounds 16 with mbuf := _ } (hend.mpr h)
    · rename_i h
      rw [hp]
      exact State.endStore_load { t.afterRounds 16 with mbuf := _ } (mt hend.mp h)

/-- Every block but the last leads to the next. -/
theorem blocksDone_iterate (b : Nat) (hi : s.blkIdx = 0#32) (hb : b < s.nblk.toNat) :
    BlocksDone s b (Nat.iterate State.engineStep (18 * b) s) := by
  induction b with
  | zero => exact ⟨s.l, s.r, s.round, by rw [← hi]; rfl⟩
  | succ b ih =>
    obtain ⟨t', hdone, hblock⟩ := BlocksDone.block s hp hop hm b _ (ih (by omega)) (by omega)
    rw [if_neg (by omega)] at hblock
    rw [show 18 * (b + 1) = 18 + 18 * b by omega, Function.iterate_add_apply, hblock]
    exact hdone

/-- All the blocks of a command, from its first LOAD to Finish. -/
theorem iterate_blocks (hi : s.blkIdx = 0#32) (hn : s.nblk ≠ 0#32) :
    ∃ t, BlocksDone s s.nblk.toNat t ∧ Nat.iterate State.engineStep (18 * s.nblk.toNat) s = t.finish := by
  obtain ⟨n, hsucc⟩ : ∃ n, s.nblk.toNat = n + 1 :=
    Nat.exists_eq_succ_of_ne_zero fun h0 => hn (BitVec.eq_of_toNat_eq h0)
  obtain ⟨t', hdone, hblock⟩ :=
    BlocksDone.block s hp hop hm n _ (blocksDone_iterate s hp hop hm n hi (by omega)) (by omega)
  rw [if_pos hsucc.symm] at hblock
  rw [hsucc]
  exact ⟨t', hdone, by rw [show 18 * (n + 1) = 18 + 18 * n by omega, Function.iterate_add_apply, hblock]⟩

end

/-- A command whose key schedule is done and whose first block is to load (R107). -/
def State.scheduled (s : State) : State :=
  { s with round := 0#5, ksValid := true, phase := .load, sk := filledTo (s.c, s.d) 16 s.sk }

/-- The steps of a CRYPT, from its issue to Finish (R265). -/
theorem iterate_crypt (s : State) (hp : s.phase = .ks) (hr : s.round = 0#5) (hop : s.curOp = .crypt)
    (hi : s.blkIdx = 0#32) (hm : s.mbuf.wf = true) :
    ∃ t, BlocksDone s.scheduled s.nblk.toNat t ∧
      Nat.iterate State.engineStep (18 * s.nblk.toNat + 16) s = t.finish := by
  rw [Function.iterate_add_apply, iterate_ks_full s hp hr]
  by_cases hn : s.nblk = 0#32
  · refine ⟨s.scheduled, ⟨s.l, s.r, 0#5, ?_⟩, ?_⟩
    · rw [hn, State.scheduled, hi]; rfl
    · rw [show 18 * s.nblk.toNat = 0 by simp [hn]]
      exact State.endSchedule_finish _ (.inr hn)
  · rw [State.endSchedule_load _ (by simp [hop, hn])]
    exact iterate_blocks s.scheduled rfl hop hm hi hn

/-! ### The padded stream and the codec -/

/-- A message that passes the issue check pads to the latched block count with the latched pad value (R160, R164). -/
theorem padMessage_of_check (cap : Nat) (dir : Direction) (keyLen : Byte) (m : List Byte) (pad : PadCfg) (n : Nat)
    (pv : Byte) (h : check cap (.crypt dir) keyLen m.length pad = .ok (n, pv)) :
    padMessage m dir pad = .ok (m ++ List.replicate (8 * n - m.length) pv) := by
  obtain ⟨-, hn, hpv, -, hdec, henc⟩ := check_ok _ _ _ _ _ _ _ h
  cases dir with
  | decrypt =>
    have hwhole := hdec rfl
    have hnone : 8 * n - m.length = 0 := by
      rw [hn]; simp only [blockCount]; omega
    simp [padMessage, hnone]
  | encrypt =>
    cases hmode : pad.mode with
    | pkcs7 =>
      have hcount : 8 * n - m.length = 8 - m.length % 8 := by
        rw [hn]; simp only [blockCount, hmode]; omega
      have hvalue : pv = BitVec.ofNat 8 (8 - m.length % 8) := by
        rw [hpv]; simp only [padValue, hmode, ← hn, hcount]
      simp only [padMessage, hmode, padPkcs7, hcount, hvalue]
    | fill =>
      have hvalue : pv = pad.byte := by
        rw [hpv]; simp only [padValue, hmode]
      simp only [padMessage, hmode, padFill, hvalue]
      split
      · have hnone : 8 * n - m.length = 0 := by
          rw [hn]; simp only [blockCount, hmode]; omega
        simp [hnone]
      · rename_i hpart
        have hpresent : pad.present = true := (henc rfl hmode).resolve_left hpart
        have hcount : 8 * n - m.length = 8 - m.length % 8 := by
          rw [hn]; simp only [blockCount, hmode]; omega
        simp [hpresent, hcount]

section
variable (s : State) (n : Nat)

/-- The message in MBUF and the pad bytes behind it, as bytes (R166). -/
def State.paddedMessage : List Byte :=
  s.mbuf.readBytes 0 s.lenL.toNat ++ List.replicate (8 * n - s.lenL.toNat) s.padv

theorem State.getElem?_paddedMessage (k : Nat) (hk : k < 8 * n) :
    (s.paddedMessage n)[k]? = some (s.streamByte k) := by
  unfold State.paddedMessage State.streamByte
  by_cases h : k < s.lenL.toNat
  · rw [List.getElem?_append_left (by simpa using h), if_pos h]
    simp [Memory.readBytes, h]
  · rw [List.getElem?_append_right (by simpa using h), if_neg h]
    simp only [Memory.length_readBytes, List.getElem?_replicate, Option.ite_none_right_eq_some, and_true]
    omega

theorem State.length_paddedMessage (hlen : s.lenL.toNat ≤ 8 * n) : (s.paddedMessage n).length = 8 * n := by
  simp only [State.paddedMessage, List.length_append, Memory.length_readBytes, List.length_replicate]
  omega

/-- A block of the padded stream is that of the padded message (R160, R166). -/
theorem State.messageBlock_paddedMessage (b : Nat) (hb : b < n) :
    messageBlock (s.paddedMessage n) b = s.paddedBlock b := by
  unfold messageBlock State.paddedBlock
  congr 1
  refine List.ext_getElem? fun k => ?_
  by_cases hk : k < 8
  · rw [List.getElem?_take_of_lt hk, List.getElem?_drop, s.getElem?_paddedMessage n _ (by omega)]
    simp [hk]
  · simp [hk]

/-- The blocks a CRYPT stores are the codec's (R160, R167). -/
theorem State.streamBlocks_eq_cryptBlocks (k : Block) (hlen : s.lenL.toNat ≤ 8 * n)
    (hsk : s.sk.toList = keySchedule k) :
    s.streamBlocks n = cryptBlocks (s.paddedMessage n) s.curDir k := by
  unfold State.streamBlocks cryptBlocks
  rw [s.length_paddedMessage n hlen, Nat.mul_div_cancel_left n (by decide)]
  refine List.flatMap_congr fun b hb => ?_
  rw [s.messageBlock_paddedMessage n b (List.mem_range.mp hb), hsk]
  rfl

end

/-- What an issued CRYPT is to store is the codec's result on the message in MBUF (R160, R193). -/
theorem crypt_of_checkIssue (s : State) (dir : Direction) (n : Nat) (pv : Byte)
    (hk : s.checkIssue (.crypt dir) = .ok (n, pv)) :
    crypt (s.mbuf.readBytes 0 s.msgLen.toNat) dir s.key s.padcfg =
      .ok ((s.start (.crypt dir) n pv).scheduled.streamBlocks n) := by
  have hpad := padMessage_of_check s.params.msgBytes dir s.keyLen (s.mbuf.readBytes 0 s.msgLen.toNat) s.padcfg n pv
    (by rw [Memory.length_readBytes]; exact hk)
  rw [Memory.length_readBytes] at hpad
  obtain ⟨-, hcount, -, -, hdec, -⟩ := check_ok _ _ _ _ _ _ _ hk
  have hcover := (crypt_blockCount_bounds dir s.padcfg s.msgLen.toNat fun hd => hdec (by rw [hd])).1
  rw [← hcount] at hcover
  rw [State.streamBlocks_eq_cryptBlocks (s.start (.crypt dir) n pv).scheduled n s.key hcover (filledTo_full _ _)]
  unfold crypt
  rw [hpad]
  rfl

/-- An issued CRYPT, from its issue to Finish: every block is done (R193, R203, R265). -/
theorem iterate_issued_crypt (s : State) (dir : Direction) (n : Nat) (pv : Byte) (hp : s.params.wf = true)
    (hm : s.mbuf.wf = true) (hk : s.checkIssue (.crypt dir) = .ok (n, pv)) :
    ∃ u, BlocksDone (s.issue (.crypt dir)).scheduled n u ∧
      Nat.iterate State.engineStep (18 * n + 16) (s.issue (.crypt dir)) = u.finish := by
  obtain ⟨-, -, -, hfit, -⟩ := check_ok _ _ _ _ _ _ _ hk
  have hn : (s.issue (.crypt dir)).nblk.toNat = n := by
    rw [issue_ok s _ n pv hk]
    exact toNat_blockCount s.params n hp hfit
  have h := iterate_crypt (s.issue (.crypt dir))
  rw [hn] at h
  rw [issue_ok s _ n pv hk] at h ⊢
  exact h rfl rfl rfl rfl hm

/-- A count of bytes that fit in MBUF fits in 32 bits (R6, log 2). -/
theorem toNat_ofNat_of_le_msgBytes (p : Params) (n : Nat) (hp : p.wf = true) (hn : n ≤ p.msgBytes) :
    (BitVec.ofNat 32 n).toNat = n := by
  simp only [Params.wf, Bool.and_eq_true, decide_eq_true_eq] at hp
  rw [BitVec.toNat_ofNat, Nat.mod_eq_of_lt (by omega)]

/-- The output length of a CRYPT, in 32 bits, loses nothing for a legal capacity (R197, log 19). -/
theorem toNat_finishedLength_crypt (s : State) (hop : s.curOp = .crypt) (hp : s.params.wf = true)
    (hfit : 8 * s.nblk.toNat ≤ s.params.msgBytes) : s.finishedLength.toNat = 8 * s.nblk.toNat := by
  rw [State.finishedLength_eq, if_pos hop, toNat_ofNat_of_le_msgBytes s.params _ hp hfit]

end Sys2Proof.Machine
end

section
/-! PROOFS. The host procedure CRYPTX: its operands are loaded, its command is issued, and the issue's error or the
command's end is polled, under every turn order. -/

namespace Sys2Proof.Machine

open Sys2Proof.Safety

/-! ### What a command can see -/

/-- The ends of the schedule and of a block read nothing of what the view leaves out. -/
theorem commandView_endSchedule (s : State) : commandView s.endSchedule = (commandView s).endSchedule := by
  unfold State.endSchedule
  rw [apply_ite commandView]
  rfl

theorem commandView_endStore (s : State) : commandView s.endStore = (commandView s).endStore := by
  unfold State.endStore
  rw [apply_ite commandView]
  rfl

/-- An engine step reads nothing of what the view leaves out (R191). -/
theorem commandView_engineStep (s : State) : commandView s.engineStep = (commandView s).engineStep := by
  cases hp : s.phase with
  | idle => rw [s.engineStep_idle hp, (commandView s).engineStep_idle hp]
  | ks =>
    rw [s.engineStep_ks hp, (commandView s).engineStep_ks hp]
    simp only [State.ksStep]
    rw [apply_ite commandView, commandView_endSchedule]
    rfl
  | load => rw [s.engineStep_load hp, (commandView s).engineStep_load hp]; rfl
  | rnd => rw [s.engineStep_rnd hp, (commandView s).engineStep_rnd hp]; rfl
  | store =>
    rw [s.engineStep_store hp, (commandView s).engineStep_store hp]
    exact commandView_endStore _

theorem commandView_iterate (k : Nat) (s : State) :
    commandView (Nat.iterate State.engineStep k s) = Nat.iterate State.engineStep k (commandView s) :=
  Function.Semiconj.iterate_right commandView_engineStep k s

/-- The turn order is nothing a command reads. -/
theorem commandView_takeTurn (s : State) : commandView s.takeTurn = commandView s := by
  unfold State.takeTurn
  split <;> rfl

/-! ### Polling -/

/-- A poll records `STATUS` and stays until `BUSY` reads 0 (R88). -/
theorem hostMove_poll (s : State) (rest : List HostOp) (hhost : s.host = .poll :: rest) :
    hostMove s = .next (State.recordRead { s with host := if s.busy then s.host else rest } s.statusWord) := by
  obtain ⟨-, -, -, -, -, -, -, -, -, hbusy⟩ := s.statusWord_fields
  unfold hostMove
  rw [hhost, ← getLsbD_of_extractLsb'_eq hbusy]
  rfl

/-- One step while the host polls: the poll ends, or it stays and uses up a turn, or the engine moves. -/
theorem step_poll (s : State) (hhost : s.host = [.poll]) :
    ∃ u, step s = .next u ∧
      ((s.busy = false ∧ u.host = [] ∧ commandView u = commandView s) ∨
       (s.busy = true ∧ u.host = [.poll] ∧ u.turns.length + 1 = s.turns.length ∧ commandView u = commandView s) ∨
       (s.busy = true ∧ u.host = [.poll] ∧ u.turns.length ≤ s.turns.length ∧
          commandView u = (commandView s).engineStep)) := by
  have hturn : s.takeTurn.host = [.poll] := by simp [hhost]
  cases hb : s.busy with
  | false =>
    have hnext : nextAgent s = some .host := by simp [nextAgent, hb, hhost]
    refine ⟨_, (step_of_nextAgent_host s hnext).trans (hostMove_poll s.takeTurn [] hturn), .inl ⟨rfl, ?_, ?_⟩⟩
    · simp [hb]
    · exact commandView_takeTurn s
  | true =>
    have htake : s.takeTurn = { s with turns := s.turns.tail } := by simp [State.takeTurn, hb, hhost]
    have hnext : nextAgent s = some (s.turns.headD .engine) := by simp [nextAgent, hb, hhost]
    cases hagent : s.turns.headD .engine with
    | host =>
      rw [hagent] at hnext
      refine ⟨_, (step_of_nextAgent_host s hnext).trans (hostMove_poll s.takeTurn [] hturn),
        .inr (.inl ⟨rfl, ?_, ?_, ?_⟩)⟩
      · simp [hb, hhost]
      · rw [htake]
        cases ht : s.turns with
        | nil => rw [ht] at hagent; cases hagent
        | cons a turns => rfl
      · exact commandView_takeTurn s
    | engine =>
      rw [hagent] at hnext
      refine ⟨s.takeTurn.engineStep, ?_, .inr (.inr ⟨rfl, by simpa using hhost, by simp [htake], ?_⟩)⟩
      · unfold step transition; rw [hnext]
      · rw [commandView_engineStep, commandView_takeTurn]

/-- A poll ends under every turn order, on what the engine's steps alone leave to be seen (R262). -/
theorem run_poll (k : Nat) (s : State) (hq : Quiet (commandView s)) (hhost : s.host = [.poll])
    (hend : State.busy (Nat.iterate State.engineStep k (commandView s)) = false) :
    ∃ (n : Nat) (u : State), n ≤ s.turns.length + k + 1 ∧ Host.Core.run Sys2Proof.core n s = .next u ∧ u.host = [] ∧
      commandView u = Nat.iterate State.engineStep k (commandView s) := by
  induction hN : s.turns.length + k using Nat.strong_induction_on generalizing k s with
  | _ N ih =>
    obtain ⟨u, hstep, ⟨hb, hu, hview⟩ | ⟨hb, hu, hturns, hview⟩ | ⟨hb, hu, hturns, hview⟩⟩ := step_poll s hhost
    · have hidle : (commandView s).engineStep = commandView s := by
        refine State.engineStep_idle _ (by_contra fun hp => ?_)
        have := hq.2.mpr hp
        rw [show (commandView s).busy = s.busy from rfl, hb] at this
        cases this
      refine ⟨1, u, by omega, run_next 0 s u hstep, hu, ?_⟩
      rw [hview, Function.iterate_fixed hidle]
    · obtain ⟨n, v, hn, hrun, hv, hdone⟩ := ih (u.turns.length + k) (by omega) k u (by rwa [hview]) hu
        (by rwa [hview]) rfl
      exact ⟨n + 1, v, by omega, (run_next n s u hstep).trans hrun, hv, by rw [hdone, hview]⟩
    · cases k with
      | zero =>
        rw [show State.busy (Nat.iterate State.engineStep 0 (commandView s)) = s.busy from rfl, hb] at hend
        cases hend
      | succ k =>
        rw [Function.iterate_succ_apply, ← hview] at hend ⊢
        obtain ⟨n, v, hn, hrun, hv, hdone⟩ := ih (u.turns.length + k) (by omega) k u
          (by rw [hview]; exact hq.engineStep) hu hend rfl
        exact ⟨n + 1, v, by omega, (run_next n s u hstep).trans hrun, hv, hdone⟩

/-- A command that `k` engine steps finish, polled under every turn order (R262). -/
theorem run_poll_finish (s : State) (k : Nat) (v : State) (hhost : s.host = [.poll])
    (hphase : s.busy = true ↔ s.phase ≠ .idle) (hiter : Nat.iterate State.engineStep k s = v.finish) :
    ∃ (n : Nat) (u : State), Host.Core.run Sys2Proof.core n s = .next u ∧ u.host = [] ∧
      commandView u = commandView v.finish := by
  have hend : Nat.iterate State.engineStep k (commandView s) = commandView v.finish := by
    rw [← commandView_iterate, hiter]
  obtain ⟨n, u, -, hrun, hu, hview⟩ := run_poll k s ⟨rfl, hphase⟩ hhost (by rw [hend]; rfl)
  exact ⟨n, u, hrun, hu, hview.trans hend⟩

/-- What the host sees of a finished command is in the view (R191). -/
theorem report_of_commandView {u t : State} (h : commandView u = commandView t) :
    u.busy = t.busy ∧ u.done = t.done ∧ u.err = t.err ∧ u.errCode = t.errCode ∧ u.outLen = t.outLen ∧
      u.mbuf = t.mbuf := by
  have field : ∀ {α : Type} (f : State → α), f (commandView u) = f (commandView t) := fun f => congrArg f h
  exact ⟨field State.busy, field State.done, field State.err, field State.errCode, field State.outLen,
    field State.mbuf⟩

/-! ### CRYPT, polled -/

/-- A CRYPT that fails its issue check, polled (R192, R222). -/
theorem run_poll_cryptError (s : State) (dir : Direction) (e : ErrCode) (hst : StatusOk s) (hb : s.busy = false)
    (hhost : s.host = [.poll]) (hk : s.checkIssue (.crypt dir) = .error e) :
    ∃ (N : Nat) (u : State), Host.Core.run Sys2Proof.core N (s.issue (.crypt dir)) = .next u ∧ u.host = [] ∧
      u.busy = false ∧ u.done = true ∧ u.err = true ∧ u.errCode = e ∧ u.outLen = 0#32 := by
  obtain ⟨hphase, -⟩ := hst
  rw [issue_error s _ e hk]
  obtain ⟨N, u, -, hrun, hu, hview⟩ := run_poll 0 (s.raiseError e) ⟨rfl, hphase⟩ hhost hb
  obtain ⟨hbusy, hdone, herr, hcode, hout, -⟩ := report_of_commandView hview
  exact ⟨N, u, hrun, hu, hbusy.trans hb, hdone, herr, hcode, hout⟩

/-- A CRYPT that passes it, polled to its end under every turn order: the codec's output is in MBUF (R160, R203). -/
theorem run_poll_crypt (s : State) (dir : Direction) (n : Nat) (pv : Byte) (hp : s.params.wf = true)
    (hm : s.mbuf.wf = true) (hhost : s.host = [.poll]) (hk : s.checkIssue (.crypt dir) = .ok (n, pv)) :
    ∃ (N : Nat) (u : State) (out : List Byte), Host.Core.run Sys2Proof.core N (s.issue (.crypt dir)) = .next u ∧
      u.host = [] ∧ u.busy = false ∧ u.done = true ∧ u.err = false ∧ u.errCode = .none ∧
      crypt (s.mbuf.readBytes 0 s.msgLen.toNat) dir s.key s.padcfg = .ok out ∧ u.outLen.toNat = out.length ∧
      u.mbuf.readBytes 0 out.length = out := by
  obtain ⟨-, -, -, hfit, -⟩ := check_ok _ _ _ _ _ _ _ hk
  have hn := toNat_blockCount s.params n hp hfit
  obtain ⟨v, hblocks, hiter⟩ := iterate_issued_crypt s dir n pv hp hm hk
  have hissue := issue_ok s _ n pv hk
  obtain ⟨N, u, hrun, hu, hview⟩ := run_poll_finish (s.issue (.crypt dir)) (18 * n + 16) v
    (by rw [hissue]; exact hhost) (by rw [hissue]; simp) hiter
  obtain ⟨hbusy, hdone, herr, hcode, hout, hmbuf⟩ := report_of_commandView hview
  obtain ⟨l, r, round, hv⟩ := hblocks
  rw [hissue] at hv
  refine ⟨N, u, _, hrun, hu, hbusy, hdone, ?_, ?_, crypt_of_checkIssue s dir n pv hk, ?_, ?_⟩
  · rw [herr, hv]; rfl
  · rw [hcode, hv]; rfl
  · have hop : v.curOp = .crypt := by rw [hv]; rfl
    have hparams : v.params = s.params := by rw [hv]; rfl
    have hcount : v.nblk.toNat = n := by rw [hv]; exact hn
    rw [hout, State.finish_outLen,
      toNat_finishedLength_crypt v hop (by rwa [hparams]) (by rwa [hcount, hparams]), hcount, State.length_streamBlocks]
  · rw [hmbuf, hv]
    exact Memory.readBytes_writeBytes s.mbuf 0 _ hm

/-! ### CRYPTX -/

/-- What LDMSG, LDKEY and PAD leave of an idle engine (R88). -/
def State.loaded (s : State) (m k : List Byte) (p : PadArg) : State :=
  ((s.putMessage m).putKey k).putPad p

/-- CRYPTX up to its command (R88). -/
theorem run_cryptx_loads (s : State) (m k : List Byte) (dir : Direction) (p : PadArg) (hp : s.params.wf = true)
    (hb : s.busy = false) (hhost : s.host = []) (hfit : m.length ≤ s.params.msgBytes) :
    Host.Core.run Sys2Proof.core (m.length + 1 + (3 + 1)) (s.withPseudo (.cryptx m dir k p)) =
      .next { s.loaded m k p with host := [cmdOp (cryptInstr dir), .poll] } := by
  have hprog : s.withPseudo (.cryptx m dir k p) =
      { s with host := ldmsgOps m ++ (ldkeyOps k ++ (padOps p ++ [cmdOp (cryptInstr dir), .poll])) } := by
    simp [State.withPseudo, expandPseudo, cryptxOps, hhost]
  rw [hprog]
  refine (core_run_add _ _ _ _ _ (run_ldmsg s m _ hp hb hfit)).trans ?_
  refine (core_run_add _ _ _ _ _ (run_ldkey (s.putMessage m) k _ hb)).trans ?_
  exact run_pad ((s.putMessage m).putKey k) p _ hb

/-- CRYPTX up to the issue of its command (R88, R190). -/
theorem run_cryptx_issues (s : State) (m k : List Byte) (dir : Direction) (p : PadArg) (hp : s.params.wf = true)
    (hb : s.busy = false) (hhost : s.host = []) (hfit : m.length ≤ s.params.msgBytes) :
    Host.Core.run Sys2Proof.core (m.length + 1 + (3 + 1) + 1) (s.withPseudo (.cryptx m dir k p)) =
      .next (State.issue (.crypt dir) { s.loaded m k p with host := [.poll] }) := by
  refine (core_run_add _ _ 1 _ _ (run_cryptx_loads s m k dir p hp hb hhost hfit)).trans ?_
  refine run_next 0 _ _ ?_
  rw [step_idle (s.loaded m k p) _ hb]
  refine (busAccess_command (encode (cryptInstr dir)) { s.loaded m k p with host := [.poll] }).trans ?_
  unfold commandWrite
  rw [decode_encode]
  exact exec_idle _ _ _ hb (by cases dir <;> rfl)

/-- The registers CRYPTX loads are those its issue checks (R192). -/
theorem checkIssue_loaded (s : State) (m k : List Byte) (p : PadArg) (cmd : Work)
    (hlen : (s.loaded m k p).msgLen.toNat = m.length) :
    (s.loaded m k p).checkIssue cmd =
      check s.params.msgBytes cmd (BitVec.ofNat 8 (min k.length 255)) m.length (PadCfg.ofWord (padWord p)) :=
  congrArg (check _ cmd _ · _) hlen

/-- A key that passes the issue check is the key that is packed (R192, log 14). -/
theorem take_eq_of_keyLen (k : List Byte) (h : BitVec.ofNat 8 (min k.length 255) = 8#8) :
    (k ++ List.replicate 8 0#8).take 8 = k := by
  have hval := congrArg BitVec.toNat h
  simp only [BitVec.toNat_ofNat] at hval
  exact List.take_left' (by omega)

/-- Settles O49: the operands are loaded, the command is issued, and its error or the engine's blocks are polled to
their end. -/
theorem cryptxRunsEndToEnd : Obligations.CryptxRunsEndToEnd := by
  unfold Obligations.CryptxRunsEndToEnd
  intro s m k dir p hinv hb hhost hwf pad checked
  obtain ⟨hp, ⟨hm, -⟩, hst, -⟩ := hinv
  simp only [Pseudo.wf, Bool.and_eq_true, decide_eq_true_eq] at hwf
  obtain ⟨hfit, -⟩ := hwf
  have hlen : (s.loaded m k p).msgLen.toNat = m.length := toNat_ofNat_of_le_msgBytes s.params _ hp hfit
  have hchecked : State.checkIssue { s.loaded m k p with host := [.poll] } (.crypt dir) = checked :=
    checkIssue_loaded s m k p _ hlen
  have hissues := run_cryptx_issues s m k dir p hp hb hhost hfit
  cases hc : checked with
  | error e =>
    obtain ⟨N, u, hrun, hu, hbusy, hdone, herr, hcode, hout⟩ :=
      run_poll_cryptError { s.loaded m k p with host := [.poll] } dir e hst hb rfl (hchecked.trans hc)
    refine ⟨_, u, (core_run_add _ _ N _ _ hissues).trans hrun, hu, hbusy, hdone, ?_, by simp⟩
    rintro e' ⟨⟩
    exact ⟨herr, hcode, hout⟩
  | ok r =>
    obtain ⟨n, pv⟩ := r
    obtain ⟨hkey, -⟩ := check_ok _ _ _ _ _ _ _ hc
    obtain ⟨N, u, out, hrun, hu, hbusy, hdone, herr, hcode, hcrypt, hout, hmbuf⟩ :=
      run_poll_crypt { s.loaded m k p with host := [.poll] } dir n pv hp (Memory.wf_writeBytes s.mbuf 0 m hm) rfl
        (hchecked.trans hc)
    refine ⟨_, u, (core_run_add _ _ N _ _ hissues).trans hrun, hu, hbusy, hdone, by simp, ?_⟩
    rintro r' -
    refine ⟨herr, hcode, out, ?_, hout, hmbuf⟩
    rw [← take_eq_of_keyLen k hkey, ← hcrypt, hlen]
    exact congrArg (crypt · dir _ _) (Memory.readBytes_writeBytes s.mbuf 0 m hm).symm

end Sys2Proof.Machine
end

section
/-! PROOFS. The key schedule: what one KS step does, what every engine step leaves alone, what the sixteen steps compute,
and that every step keeps the meaning of `KS_VALID`. -/

namespace Sys2Proof.Machine

open Sys2Proof.Safety

/-! ### What every engine step leaves unchanged -/

/-- Outside the KS phase an engine step leaves the schedule and its halves alone (R107). -/
theorem State.engineStep_schedule_of_ne_ks (s : State) (h : s.phase ≠ .ks) :
    s.engineStep.c = s.c ∧ s.engineStep.d = s.d ∧ s.engineStep.sk = s.sk ∧ s.engineStep.ksValid = s.ksValid := by
  cases hp : s.phase with
  | idle => simp [State.engineStep_idle s hp]
  | ks => exact absurd hp h
  | load => simp [State.engineStep_load s hp]
  | rnd => simp [State.engineStep_rnd s hp, State.rndStep]
  | store => simp [State.engineStep_store s hp, State.storeStep]

/-- Outside LOAD and RND an engine step leaves the round halves alone (R143, R144). -/
theorem State.engineStep_roundHalves_of_ne (s : State) (hl : s.phase ≠ .load) (hr : s.phase ≠ .rnd) :
    s.engineStep.l = s.l ∧ s.engineStep.r = s.r := by
  cases hp : s.phase with
  | idle => simp [State.engineStep_idle s hp]
  | ks =>
    simp only [State.engineStep_ks s hp, State.ksStep]
    split <;> simp
  | load => exact absurd hp hl
  | rnd => exact absurd hp hr
  | store => simp [State.engineStep_store s hp, State.storeStep]

/-- Outside STORE an engine step stores nothing and counts no block (R146). -/
theorem State.engineStep_stored_of_ne_store (s : State) (h : s.phase ≠ .store) :
    s.engineStep.blk = s.blk ∧ s.engineStep.mbuf = s.mbuf ∧ s.engineStep.blkIdx = s.blkIdx := by
  cases hp : s.phase with
  | idle => simp [State.engineStep_idle s hp]
  | ks =>
    simp only [State.engineStep_ks s hp, State.ksStep]
    split <;> simp
  | load => simp [State.engineStep_load s hp]
  | rnd => simp [State.engineStep_rnd s hp, State.rndStep]
  | store => exact absurd hp h

/-- Settles O34: the fields no step writes, and the fields each phase keeps to itself. -/
theorem engineStepFrame : Obligations.EngineStepFrame := by
  unfold Obligations.EngineStepFrame
  intro s
  exact ⟨s.engineStep_params, s.engineStep_key, s.engineStep_keyLen, s.engineStep_msgLen, s.engineStep_padcfg,
    s.engineStep_err, s.engineStep_errCode, s.engineStep_ovr, s.engineStep_curOp, s.engineStep_curDir,
    s.engineStep_nblk, s.engineStep_padv, s.engineStep_lenL, s.engineStep_host, s.engineStep_turns,
    s.engineStep_readLog, s.engineStep_schedule_of_ne_ks, s.engineStep_roundHalves_of_ne,
    s.engineStep_stored_of_ne_store⟩

/-! ### One KS step -/

/-- What a KS step makes of the halves and the subkey file, before the end of the schedule is looked at (R107). -/
def State.ksRound (s : State) : State :=
  let cd := rotateHalves (s.round.toNat + 1) (s.c, s.d)
  { s with
    round := s.round + 1#5
    c := cd.1
    d := cd.2
    sk := s.sk.setIfInBounds s.round.toNat (subkeyOf cd) }

theorem State.round_succ_toNat (s : State) (h : s.round.toNat < 16) : (s.round + 1#5).toNat = s.round.toNat + 1 := by
  bv_omega

/-- A KS step does its round, and after round 16 ends the schedule (R107). -/
theorem State.ksStep_eq (s : State) (h : s.round.toNat < 16) :
    s.ksStep = if s.round.toNat + 1 = 16 then s.ksRound.endSchedule else s.ksRound := by
  have hnext := s.round_succ_toNat h
  have hlast : s.round + 1#5 = 16#5 ↔ s.round.toNat + 1 = 16 := by rw [← BitVec.toNat_inj, hnext]; rfl
  simp [State.ksStep, State.ksRound, State.setSubkey, hnext, hlast]

/-- A KS step makes the entry of its round (R107). -/
theorem State.subkeyEntry_ksRound_same (s : State) (h : s.round.toNat < 16) :
    subkeyEntry s.ksRound.sk.toList (s.round.toNat + 1) =
      subkeyOf (rotateHalves (s.round.toNat + 1) (s.c, s.d)) :=
  subkeyEntry_set_same s.sk (s.round.toNat + 1) _ (by omega) (by omega)

/-- A KS step leaves every other entry (R107). -/
theorem State.subkeyEntry_ksRound_other (s : State) (j : Nat) (hj : 1 ≤ j) (hne : j ≠ s.round.toNat + 1) :
    subkeyEntry s.ksRound.sk.toList j = subkeyEntry s.sk.toList j :=
  subkeyEntry_set_other s.sk (s.round.toNat + 1) j _ (by omega) hj hne

/-- The rotation of a round, as the circular left rotation by its shift count (R11, R104). -/
theorem rotateHalves_eq_rotateLeft (i : Nat) (c d : KeyHalf) :
    rotateHalves i (c, d) = (c.rotateLeft (shiftCount i), d.rotateLeft (shiftCount i)) := by
  simp only [rotateHalves, rotl28_eq_rotateLeft _ _ (shiftCount_lt i)]

/-- `C` and `D` after a KS step (R107). -/
theorem State.ksStep_halves (s : State) (h : s.round.toNat < 16) :
    (s.ksStep.c, s.ksStep.d) = rotateHalves (s.round.toNat + 1) (s.c, s.d) := by
  rw [s.ksStep_eq h]
  split
  · rw [State.endSchedule_c, State.endSchedule_d]; rfl
  · rfl

/-- The end of the schedule makes no entry (R107). -/
theorem State.ksStep_sk (s : State) (h : s.round.toNat < 16) : s.ksStep.sk = s.ksRound.sk := by
  rw [s.ksStep_eq h]
  split
  · exact State.endSchedule_sk s.ksRound
  · rfl

/-- The schedule is valid when it ends, and the command ends or has a block to load (R107, R197). -/
theorem State.endSchedule_spec (s : State) :
    s.endSchedule.round = 0#5 ∧ s.endSchedule.ksValid = true ∧
    ((s.curOp = .keygen ∨ s.nblk = 0#32) →
      s.endSchedule.phase = .idle ∧ s.endSchedule.busy = false ∧ s.endSchedule.done = true) ∧
    (¬(s.curOp = .keygen ∨ s.nblk = 0#32) →
      s.endSchedule.phase = .load ∧ s.endSchedule.busy = s.busy ∧ s.endSchedule.done = s.done) := by
  by_cases hend : s.curOp = .keygen ∨ s.nblk = 0#32
  · rw [State.endSchedule_finish s hend]
    exact ⟨rfl, rfl, fun _ => ⟨rfl, rfl, rfl⟩, fun h => absurd hend h⟩
  · rw [State.endSchedule_load s hend]
    exact ⟨rfl, rfl, fun h => absurd h hend, fun _ => ⟨rfl, rfl, rfl⟩⟩

/-- Settles O30: the round of `State.ksRound`, and after round 16 one of the two ends of the schedule. -/
theorem keyScheduleStep : Obligations.KeyScheduleStep := by
  unfold Obligations.KeyScheduleStep
  intro s hp hr
  have hcd := s.ksStep_halves hr
  rw [rotateHalves_eq_rotateLeft, Prod.mk.injEq] at hcd
  obtain ⟨hc, hd⟩ := hcd
  simp only [State.engineStep_ks s hp]
  refine ⟨hc, hd, ?_, fun j hj hne => ?_, fun hlt => ?_, fun hlast => ?_⟩
  · rw [s.ksStep_sk hr, s.subkeyEntry_ksRound_same hr, rotateHalves_eq_rotateLeft]
    rfl
  · rw [s.ksStep_sk hr, s.subkeyEntry_ksRound_other j hj hne]
  · rw [s.ksStep_eq hr, if_neg (Nat.ne_of_lt hlt)]
    exact ⟨s.round_succ_toNat hr, hp, rfl, rfl, rfl, rfl⟩
  · rw [s.ksStep_eq hr, if_pos hlast]
    exact s.ksRound.endSchedule_spec

/-! ### The function -/

/-- A permutation reads only the elements its table names (R10). -/
theorem permute_congr {n : Nat} (m : Nat) (t : List Nat) (v w : BitVec n)
    (h : ∀ x ∈ t, v.getMsbD x = w.getMsbD x) : permute m t v = permute m t w := by
  unfold permute desBit
  congr 1
  exact List.foldl_ext _ _ _ fun a x hx => by rw [h x hx]

/-- PC-1 names no parity bit (R102). -/
theorem pc1_avoids_parity : ∀ x ∈ Tables.pc1, (0xFEFEFEFEFEFEFEFE#64).getMsbD x = true := by decide

/-- Settles O38: PC-1 drops the parity bits, so the halves the schedule starts from agree. -/
theorem parityBitsDoNotMatter : Obligations.ParityBitsDoNotMatter := by
  unfold Obligations.ParityBitsDoNotMatter
  intro k k' h
  have hpc1 : permute 56 Tables.pc1 k = permute 56 Tables.pc1 k' := by
    refine permute_congr 56 _ k k' fun x hx => ?_
    have hbit := congrArg (·.getMsbD x) h
    simpa only [BitVec.getMsbD_and, pc1_avoids_parity x hx, Bool.and_true] using hbit
  unfold keySchedule keyHalves
  rw [hpc1]

/-! ### The sixteen steps -/

/-- Settles O37: the halves return, and the subkey file is filled round by round. -/
theorem scheduleReturnsToItsStart : Obligations.ScheduleReturnsToItsStart := by
  unfold Obligations.ScheduleReturnsToItsStart
  intro s hp hr
  rw [iterate_ks_full s hp hr]
  simpa using filledTo_full (s.c, s.d) s.sk

/-- KEYGEN is issued with no block and no pad whenever the key has 8 bytes (R192). -/
theorem checkIssue_keygen (s : State) (h : s.keyLen = 8#8) : s.checkIssue .keygen = .ok (0, 0#8) := by
  simp [State.checkIssue, check, h, Work.curOp, blockCount, padValue]

/-- Settles O44: the issue starts the schedule, and with a quiet host the sixteen steps that end it are the run. -/
theorem keygenComputesTheSchedule : Obligations.KeygenComputesTheSchedule := by
  unfold Obligations.KeygenComputesTheSchedule
  intro s hb hk hhost
  have hissue := issue_ok s .keygen 0 0#8 (checkIssue_keygen s hk)
  have hquiet : Quiet (s.issue .keygen) := by
    rw [hissue]
    exact ⟨hhost, by simp⟩
  refine ⟨s.issue .keygen, _, exec_idle .keygen .keygen s hb rfl, Quiet.run 16 _ hquiet, ?_⟩
  rw [hissue, iterate_ks_full _ rfl rfl, State.endSchedule_finish _ (.inl rfl)]
  exact ⟨filledTo_full _ _, rfl⟩

/-! ### The meaning of `KS_VALID` -/

/-- A state outside the KS phase keeps the meaning of `KS_VALID` if it keeps the schedule and its halves (R110). -/
theorem scheduleInv_of_same (s t : State) (h : ScheduleInv s) (hp : t.phase ≠ .ks)
    (hsame : t.c = s.c ∧ t.d = s.d ∧ t.sk = s.sk ∧ t.ksValid = s.ksValid) : ScheduleInv t := by
  obtain ⟨hc, hd, hsk, hv⟩ := hsame
  obtain ⟨hvalid, -⟩ := h
  exact ⟨by rwa [hc, hd, hsk, hv], fun hks => absurd hks hp⟩

/-- The KS phase is entered by an issue, never by an engine step (R43). -/
theorem State.engineStep_phase_ne_ks (s : State) (h : s.phase ≠ .ks) : s.engineStep.phase ≠ .ks := by
  cases hp : s.phase with
  | idle => simp [State.engineStep_idle s hp, hp]
  | ks => exact absurd hp h
  | load => simp [State.engineStep_load s hp]
  | rnd =>
    simp only [State.engineStep_rnd s hp, State.rndStep, hp]
    split <;> simp
  | store =>
    simp only [State.engineStep_store s hp, State.storeStep, State.endStore]
    split <;> simp

/-- What `ScheduleInv` says during the KS phase, after `n` rounds: the entries of rounds 1 to `n` are those of the
halves `cd`, from which those rounds have led to `C` and `D` (R107). -/
def MadeFrom (cd : KeyHalf × KeyHalf) (n : Nat) (s : State) : Prop :=
  (s.c, s.d) = halvesAfter n cd ∧ ∀ i, 1 ≤ i → i ≤ n → subkeyEntry s.sk.toList i = subkeyOf (halvesAfter i cd)

/-- A KS step makes one more entry of the same schedule. -/
theorem madeFrom_ksRound (s : State) (cd : KeyHalf × KeyHalf) (hr : s.round.toNat < 16)
    (h : MadeFrom cd s.round.toNat s) : MadeFrom cd (s.round.toNat + 1) s.ksRound := by
  obtain ⟨hcd, hmade⟩ := h
  have hnext : rotateHalves (s.round.toNat + 1) (s.c, s.d) = halvesAfter (s.round.toNat + 1) cd := by
    rw [hcd]; rfl
  refine ⟨hnext, fun i h1 hi => ?_⟩
  by_cases hnew : i = s.round.toNat + 1
  · rw [hnew, s.subkeyEntry_ksRound_same hr, hnext]
  · rw [s.subkeyEntry_ksRound_other i h1 hnew]
    exact hmade i h1 (by omega)

/-- A schedule made to the end is that of `C` and `D`, which have returned to its start (R111). -/
theorem MadeFrom.full (s : State) (cd : KeyHalf × KeyHalf) (h : MadeFrom cd 16 s) :
    s.sk.toList = scheduleOf (s.c, s.d) := by
  obtain ⟨hcd, hmade⟩ := h
  rw [hcd, halvesAfter_full]
  exact eq_scheduleOf s.sk cd hmade

/-- The end of the key schedule leaves the KS phase (R107). -/
theorem State.endSchedule_phase_ne_ks (s : State) : s.endSchedule.phase ≠ .ks := by
  unfold State.endSchedule
  split <;> simp

/-- A KS step keeps the meaning of `KS_VALID`, which it sets only with the last entry made. -/
theorem scheduleInv_ksStep (s : State) (h : ScheduleInv s) (hp : s.phase = .ks) (hr : s.round.toNat < 16)
    (hv : s.ksValid = false) : ScheduleInv s.ksStep := by
  obtain ⟨-, hks⟩ := h
  obtain ⟨cd, hmade⟩ := hks hp
  have hnext := madeFrom_ksRound s cd hr hmade
  rw [s.ksStep_eq hr]
  split
  · rename_i hlast
    rw [hlast] at hnext
    exact ⟨fun _ => by simpa using hnext.full, fun hc => absurd hc s.ksRound.endSchedule_phase_ne_ks⟩
  · rw [← s.round_succ_toNat hr] at hnext
    exact ⟨fun hc => absurd (hv.symm.trans hc) (by decide), fun _ => ⟨cd, hnext⟩⟩

/-- Every step of the engine keeps the meaning of `KS_VALID`. -/
theorem scheduleInv_engineStep (s : State) (hinv : Inv s) (h : ScheduleInv s) : ScheduleInv s.engineStep := by
  by_cases hp : s.phase = .ks
  · obtain ⟨-, -, -, ⟨-, hks, -⟩, -⟩ := hinv
    obtain ⟨hr, hv, -⟩ := hks hp
    rw [State.engineStep_ks s hp]
    exact scheduleInv_ksStep s h hp hr hv
  · exact scheduleInv_of_same s _ h (s.engineStep_phase_ne_ks hp) (s.engineStep_schedule_of_ne_ks hp)

/-- A register or MBUF write stores nothing the schedule depends on. -/
theorem scheduleInv_writeTarget (s : State) (w : Word) (g : Target) (h : ScheduleInv s) :
    ScheduleInv (s.writeTarget w g) := by
  cases g with
  | register r => cases r <;> exact h
  | buffer a n => exact h

/-- Whatever a taken write does keeps the meaning of `KS_VALID`: CLEAR and a successful issue take the flag back, the
latter with no entry of the new schedule made yet (R193, R251). -/
theorem scheduleInv_writeEffect (s u : State) (t : Access) (h : ScheduleInv s) (e : WriteEffect s t u) :
    ScheduleInv u := by
  cases e with
  | ignored => exact h
  | cleared => simp [ScheduleInv]
  | completed => exact h
  | failed => exact h
  | started cmd n pv =>
    refine ⟨by simp, fun _ => ⟨keyHalves s.key, rfl, fun i h1 h0 => ?_⟩⟩
    have hnone : i ≤ 0 := h0
    omega
  | stored g => exact scheduleInv_writeTarget s t.data g h

/-- A host operation keeps the meaning of `KS_VALID`: it is an access, or it changes the host's own fields only. -/
theorem scheduleInv_hostMove (s u : State) (h : ScheduleInv s) (hu : hostMove s = .next u) : ScheduleInv u := by
  rcases hostMove_effect s u hu with ⟨-, rfl⟩ | ⟨t, rest, -, ha⟩ | ⟨host', v, rfl, -⟩
  · exact h
  · obtain ⟨-, ⟨-, v, rfl⟩ | ⟨-, e⟩⟩ := busAccess_effect t _ u ha
    · exact h
    · exact scheduleInv_writeEffect { s with host := rest } u t h e
  · exact h

/-- The turn order is no part of the schedule. -/
theorem scheduleInv_takeTurn (s : State) (h : ScheduleInv s) : ScheduleInv s.takeTurn := by
  unfold State.takeTurn
  split <;> exact h

/-- Settles O53: a step holds the state, or is a host operation, or is an engine step. -/
theorem everyStepKeepsTheScheduleValid : Obligations.EveryStepKeepsTheScheduleValid := by
  unfold Obligations.EveryStepKeepsTheScheduleValid
  intro s t hinv h hstep
  rcases step_effect s t hstep with ⟨-, -, rfl⟩ | ⟨-, hmove⟩ | ⟨-, rfl⟩
  · exact h
  · exact scheduleInv_hostMove s.takeTurn t (scheduleInv_takeTurn s h) hmove
  · exact scheduleInv_engineStep s.takeTurn (inv_takeTurn s hinv) (scheduleInv_takeTurn s h)

end Sys2Proof.Machine
end

section
/-! PROOFS. The Feistel round: what one RND step does, and that the rows of the S-boxes are permutations. -/

namespace Sys2Proof.Machine

/-! ### One RND step -/

/-- The subkey of a round, by direction (R144). -/
theorem subkeyFor_eq_ite (sks : List Subkey) (dir : Direction) (i : Nat) :
    subkeyFor sks dir i = if dir = .encrypt then subkeyEntry sks i else subkeyEntry sks (17 - i) := by
  cases dir <;> rfl

/-- Counting a round reaches 16 exactly after the fifteenth; below 16 the 5-bit counter does not wrap (R44). -/
theorem State.round_succ_eq_sixteen_iff (s : State) (h : s.round.toNat < 16) :
    s.round + 1#5 = 16#5 ↔ s.round.toNat + 1 = 16 := by
  rw [← BitVec.toNat_inj, s.round_succ_toNat h]
  rfl

/-- An RND step does the Feistel round of its subkey and leaves the phase after round 16 (R126, R144). -/
theorem State.rndStep_eq (s : State) (h : s.round.toNat < 16) :
    s.rndStep = { s with
      l := s.r
      r := s.l ^^^ feistelF s.r (subkeyFor s.sk.toList s.curDir (s.round.toNat + 1))
      round := s.round + 1#5
      phase := if s.round.toNat + 1 = 16 then .store else s.phase } := by
  simp only [State.rndStep, feistelRound, s.round_succ_toNat h, s.round_succ_eq_sixteen_iff h,
    BitVec.xor_comm s.l]

/-- Settles O32: the round of `State.rndStep_eq`, with `f` and the subkey written out. -/
theorem roundStepAppliesOneFeistelRound : Obligations.RoundStepAppliesOneFeistelRound := by
  unfold Obligations.RoundStepAppliesOneFeistelRound
  intro s hp hr i k
  have hk : subkeyFor s.sk.toList s.curDir i = k := subkeyFor_eq_ite s.sk.toList s.curDir i
  rw [State.engineStep_rnd s hp, s.rndStep_eq hr, hk, hp]
  rfl

/-! ### The S-boxes -/

/-- Settles O36: a finite fact about the 32 rows of the tables. -/
theorem sboxRowsArePermutations : Obligations.SboxRowsArePermutations := by
  unfold Obligations.SboxRowsArePermutations
  decide

end Sys2Proof.Machine
end

section
/-! PROOFS. The block transform: IP and FP undo each other, decryption undoes encryption, and complementing key and
block complements the result. -/

namespace Sys2Proof.Machine

/-! ### The initial and the final permutation -/

/-- FP undoes IP: entry `FP[i]` of IP is `i` (R142). -/
theorem finalPerm_initialPerm (x : Block) :
    permute 64 Tables.finalPerm (permute 64 Tables.initialPerm x : Block) = x :=
  permute_inverse Tables.initialPerm Tables.finalPerm x rfl rfl (by decide) (by decide)

/-- IP undoes FP: entry `IP[i]` of FP is `i` (R142). -/
theorem initialPerm_finalPerm (x : Block) :
    permute 64 Tables.initialPerm (permute 64 Tables.finalPerm x : Block) = x :=
  permute_inverse Tables.finalPerm Tables.initialPerm x rfl rfl (by decide) (by decide)

/-- Settles O35: each table inverts the other. -/
theorem finalPermutationInvertsInitial : Obligations.FinalPermutationInvertsInitial := by
  unfold Obligations.FinalPermutationInvertsInitial
  exact fun x => ⟨finalPerm_initialPerm x, initialPerm_finalPerm x⟩

/-! ### Decryption undoes encryption -/

/-- The halves of a result are the last round's, swapped (R140). -/
theorem blockHalves_blockOf (lr : Half × Half) : blockHalves (blockOf lr) = lr.swap := by
  simp only [blockHalves, blockOf, initialPerm_finalPerm, hi32_append, lo32_append]
  rfl

/-- The halves of a block, swapped, are those of a last round with this result (R140). -/
theorem blockOf_swap_blockHalves (x : Block) : blockOf (blockHalves x).swap = x := by
  simp only [blockHalves, blockOf, Prod.swap, hi32_append_lo32, finalPerm_initialPerm]

/-- Rounds that use the same subkeys are the same. -/
theorem roundsAfter_congr (sks sks' : List Subkey) (dir dir' : Direction) (n : Nat) (lr : Half × Half)
    (h : ∀ r, 1 ≤ r → r ≤ n → subkeyFor sks dir r = subkeyFor sks' dir' r) :
    roundsAfter sks dir n lr = roundsAfter sks' dir' n lr := by
  induction n with
  | zero => rfl
  | succ n ih =>
    rw [roundsAfter_succ, roundsAfter_succ, h (n + 1) (by omega) le_rfl, ih fun r h1 hr => h r h1 (by omega)]

/-- From the swapped halves after round 16, each round in the reverse order undoes the last of those before it. -/
theorem roundsAfter_reverse (sks : List Subkey) (dir dir' : Direction) (lr : Half × Half)
    (h : ∀ r, 1 ≤ r → r ≤ 16 → subkeyFor sks dir' r = subkeyFor sks dir (17 - r)) (n : Nat) (hn : n ≤ 16) :
    roundsAfter sks dir' n (roundsAfter sks dir 16 lr).swap = (roundsAfter sks dir (16 - n) lr).swap := by
  induction n with
  | zero => rfl
  | succ n ih =>
    have hlast : 16 - n = 16 - (n + 1) + 1 := by omega
    have hkey : subkeyFor sks dir' (n + 1) = subkeyFor sks dir (16 - (n + 1) + 1) := by
      rw [h (n + 1) (by omega) hn]
      congr 1
      omega
    rw [roundsAfter_succ, ih (by omega), hlast, roundsAfter_succ, hkey, feistelRound_swap]

/-- The transform with the subkeys in the reverse order undoes the transform (R147). -/
theorem des_des (x : Block) (sks : List Subkey) (dir dir' : Direction)
    (h : ∀ r, 1 ≤ r → r ≤ 16 → subkeyFor sks dir' r = subkeyFor sks dir (17 - r)) :
    des (des x sks dir) sks dir' = x := by
  unfold des
  rw [blockHalves_blockOf, roundsAfter_reverse sks dir dir' _ h 16 le_rfl]
  exact blockOf_swap_blockHalves x

/-- Decryption uses the subkeys of encryption in the reverse order (R109). -/
theorem subkeyFor_decrypt (sks : List Subkey) (r : Nat) :
    subkeyFor sks .decrypt r = subkeyFor sks .encrypt (17 - r) := rfl

/-- Encryption uses the subkeys of decryption in the reverse order (R109). -/
theorem subkeyFor_encrypt (sks : List Subkey) (r : Nat) (hr : r ≤ 16) :
    subkeyFor sks .encrypt r = subkeyFor sks .decrypt (17 - r) := by
  rw [subkeyFor_decrypt, Nat.sub_sub_self (by omega)]

/-- Entry `i` of a reversed subkey file is entry `17 - i` of the file (R109). -/
theorem subkeyEntry_reverse (sks : List Subkey) (hlen : sks.length = 16) (i : Nat) (h1 : 1 ≤ i) (h16 : i ≤ 16) :
    subkeyEntry sks.reverse i = subkeyEntry sks (17 - i) := by
  unfold subkeyEntry
  rw [List.getD_reverse (i - 1) (by omega)]
  congr 1
  omega

/-- Settles O39: both directions by `des_des`, and the rounds of a decryption by their subkeys. -/
theorem desIsSelfInverse : Obligations.DesIsSelfInverse := by
  unfold Obligations.DesIsSelfInverse
  refine ⟨fun x k => ⟨?_, ?_⟩, fun x sks hlen => ?_⟩
  · exact des_des x _ .encrypt .decrypt fun r _ _ => subkeyFor_decrypt _ r
  · exact des_des x _ .decrypt .encrypt fun r _ hr => subkeyFor_encrypt _ r hr
  · unfold des
    rw [roundsAfter_congr sks sks.reverse .decrypt .encrypt 16 _ fun r h1 hr => ?_]
    exact (subkeyEntry_reverse sks hlen r h1 hr).symm

/-! ### Complements -/

/-- Both halves of a pair complemented. -/
def complementHalves {n : Nat} (p : BitVec n × BitVec n) : BitVec n × BitVec n := (~~~p.1, ~~~p.2)

/-- A field of a complemented value, up to its top bit. -/
theorem extractLsb'_not_of_le {w : Nat} (v : BitVec w) (start len : Nat) (h : start + len ≤ w) :
    (~~~v).extractLsb' start len = ~~~(v.extractLsb' start len) := by
  apply BitVec.eq_of_getLsbD_eq
  intro i hi
  have hin : start + i < w := by omega
  simp [hi, hin]

/-- The halves the schedule starts from (R100). -/
theorem keyHalves_not (k : Block) : keyHalves (~~~k) = complementHalves (keyHalves k) := by
  have hpc1 : permute 56 Tables.pc1 (~~~k) = ~~~(permute 56 Tables.pc1 k) := permute_not _ k rfl (by decide)
  simp only [keyHalves, complementHalves, hi28, lo28, hpc1]
  rw [extractLsb'_not_of_le _ 28 28 (by decide), extractLsb'_not_of_le _ 0 28 (by decide)]

/-- The rotations of complemented halves (R100 step 3). -/
theorem halvesAfter_complement (n : Nat) (cd : KeyHalf × KeyHalf) :
    halvesAfter n (complementHalves cd) = complementHalves (halvesAfter n cd) := by
  induction n with
  | zero => rfl
  | succ n ih =>
    simp only [halvesAfter, ih]
    simp only [rotateHalves, complementHalves, rotl28_not _ _ (shiftCount_lt _)]

/-- PC-2 of complemented halves (R105). -/
theorem subkeyOf_complement (cd : KeyHalf × KeyHalf) : subkeyOf (complementHalves cd) = ~~~(subkeyOf cd) := by
  unfold subkeyOf complementHalves
  rw [← BitVec.not_append]
  exact permute_not _ _ rfl (by decide)

/-- Every subkey of the complemented key is the complement of the key's (R100). -/
theorem subkeyFor_keySchedule_not (k : Block) (dir : Direction) (r : Nat) (h1 : 1 ≤ r) (hr : r ≤ 16) :
    subkeyFor (keySchedule (~~~k)) dir r = ~~~(subkeyFor (keySchedule k) dir r) := by
  have hentry (i : Nat) (h1 : 1 ≤ i) (hi : i ≤ 16) :
      subkeyEntry (keySchedule (~~~k)) i = ~~~(subkeyEntry (keySchedule k) i) := by
    unfold keySchedule
    rw [subkeyEntry_scheduleOf _ i h1 hi, subkeyEntry_scheduleOf _ i h1 hi, keyHalves_not, halvesAfter_complement,
      subkeyOf_complement]
  cases dir with
  | encrypt => exact hentry r h1 hr
  | decrypt => exact hentry (17 - r) (by omega) (by omega)

/-- The f-function does not see a complement of both its operands: the xor takes it back (R125). -/
theorem feistelF_not (r : Half) (k : Subkey) : feistelF (~~~r) (~~~k) = feistelF r k := by
  have hexpand : expand (~~~r) = ~~~(expand r) := permute_not _ r rfl (by decide)
  unfold feistelF
  rw [hexpand, ← BitVec.not_xor_left, ← BitVec.not_xor_right, BitVec.not_not]

/-- A round of complemented halves: `f` is the same, the other operand of its xor is not (R126). -/
theorem feistelRound_complement (lr : Half × Half) (k : Subkey) :
    feistelRound (complementHalves lr) (~~~k) = complementHalves (feistelRound lr k) := by
  simp only [feistelRound, complementHalves, feistelF_not, BitVec.not_xor_right]

/-- The rounds under the complemented key, from complemented halves (R140 step 2). -/
theorem roundsAfter_complement (k : Block) (dir : Direction) (n : Nat) (hn : n ≤ 16) (lr : Half × Half) :
    roundsAfter (keySchedule (~~~k)) dir n (complementHalves lr) =
      complementHalves (roundsAfter (keySchedule k) dir n lr) := by
  induction n with
  | zero => rfl
  | succ n ih =>
    rw [roundsAfter_succ, roundsAfter_succ, ih (by omega), subkeyFor_keySchedule_not k dir _ (by omega) hn,
      feistelRound_complement]

/-- L0 and R0 of a complemented block (R140 step 1). -/
theorem blockHalves_not (x : Block) : blockHalves (~~~x) = complementHalves (blockHalves x) := by
  have hip : permute 64 Tables.initialPerm (~~~x) = ~~~(permute 64 Tables.initialPerm x) :=
    permute_not _ x rfl (by decide)
  simp only [blockHalves, complementHalves, hi32, lo32, hip]
  rw [extractLsb'_not_of_le _ 32 32 (by decide), extractLsb'_not_of_le _ 0 32 (by decide)]

/-- The final permutation of complemented halves (R140 steps 3 and 4). -/
theorem blockOf_complement (lr : Half × Half) : blockOf (complementHalves lr) = ~~~(blockOf lr) := by
  unfold blockOf complementHalves
  rw [← BitVec.not_append]
  exact permute_not _ _ rfl (by decide)

/-- Settles O40: the complement passes through the halves, every round and the final permutation. -/
theorem complementProperty : Obligations.ComplementProperty := by
  unfold Obligations.ComplementProperty
  intro x k dir
  unfold desWithKey des
  rw [blockHalves_not, roundsAfter_complement k dir 16 le_rfl, blockOf_complement]

end Sys2Proof.Machine
end

section
/-! PROOFS. The engine's steps for a block: one LOAD step, a whole BLOCK command, and the steps a command has left. -/

namespace Sys2Proof.Machine

open Sys2Proof.Safety

/-! ### One LOAD step -/

/-- The block a LOAD step takes, by the command (R143, R166). -/
theorem State.loadOperand_eq_ite (s : State) :
    s.loadOperand = if s.curOp = .block then s.blk else s.paddedBlock s.blkIdx.toNat := by
  split
  · rename_i hop
    simp only [State.loadOperand, hop]
  · rename_i hop
    exact s.loadOperand_of_ne_block hop

/-- Settles O31: a LOAD step splits the initial permutation of the block it takes. -/
theorem loadStepTakesThePaddedBlock : Obligations.LoadStepTakesThePaddedBlock := by
  unfold Obligations.LoadStepTakesThePaddedBlock
  intro s hp x y
  have hx : s.loadOperand = x := s.loadOperand_eq_ite
  rw [State.engineStep_load s hp, State.loadStep, hx]
  rfl

/-! ### A whole BLOCK command -/

/-- BLOCK is issued for one block and no pad whenever the key has 8 bytes: every legal capacity holds a block (R6,
R192). -/
theorem checkIssue_block (s : State) (dir : Direction) (hp : s.params.wf = true) (h : s.keyLen = 8#8) :
    s.checkIssue (.block dir) = .ok (1, 0#8) := by
  simp only [Params.wf, Bool.and_eq_true, decide_eq_true_eq] at hp
  obtain ⟨⟨hfit, -⟩, -⟩ := hp
  simp [State.checkIssue, check, h, Work.curOp, blockCount, padValue, hfit]

/-- The eighteen steps of the one block of a BLOCK command, up to Finish (R143 to R148). -/
theorem iterate_block_of_block (s : State) (hp : s.phase = .load) (hop : s.curOp = .block)
    (hlast : s.blkIdx + 1#32 = s.nblk) :
    Nat.iterate State.engineStep 18 s = State.finish { s.afterRounds 16 with
      blk := des s.blk s.sk.toList s.curDir, blkIdx := s.blkIdx + 1#32 } := by
  have hstore : (s.afterRounds 16).storeBlock (des s.blk s.sk.toList s.curDir) =
      { s.afterRounds 16 with blk := des s.blk s.sk.toList s.curDir } := by
    simp [State.storeBlock, State.afterRounds, hop]
  rw [iterate_block s hp, State.storeStep, blockOf_afterRounds, s.loadOperand_eq_ite, if_pos hop, hstore]
  exact State.endStore_finish _ hlast

/-- The steps of a BLOCK, from its issue to Finish (R265). -/
theorem iterate_blockCommand (s : State) (hp : s.phase = .ks) (hr : s.round = 0#5) (hop : s.curOp = .block)
    (hi : s.blkIdx = 0#32) (hn : s.nblk = 1#32) :
    Nat.iterate State.engineStep 34 s = State.finish { s.scheduled.afterRounds 16 with
      blk := des s.blk s.scheduled.sk.toList s.curDir, blkIdx := 1#32 } := by
  rw [show 34 = 18 + 16 from rfl, Function.iterate_add_apply, iterate_ks_full s hp hr,
    State.endSchedule_load _ (by simp [hop, hn])]
  have hindex : s.scheduled.blkIdx = 0#32 := hi
  have hblock := iterate_block_of_block s.scheduled rfl hop (by rw [hindex]; exact hn.symm)
  rwa [hindex] at hblock

/-- The two BLOCK commands and their directions (R202). -/
theorem workOf_block (i : Instr) (dir : Direction)
    (h : (i, dir) ∈ [(Instr.blockE, Direction.encrypt), (.blockD, .decrypt)]) : workOf i = some (.block dir) := by
  simp only [List.mem_cons, Prod.mk.injEq, List.not_mem_nil, or_false] at h
  rcases h with ⟨rfl, rfl⟩ | ⟨rfl, rfl⟩ <;> rfl

/-- Settles O45: the issue starts the schedule, and with a quiet host the run is the steps of the schedule and of one
block. -/
theorem blockComputesDes : Obligations.BlockComputesDes := by
  unfold Obligations.BlockComputesDes
  intro s i dir hmem hp hb hk hhost
  have hissue := issue_ok s (.block dir) 1 0#8 (checkIssue_block s dir hp hk)
  have hquiet : Quiet (s.issue (.block dir)) := by
    rw [hissue]
    exact ⟨hhost, by simp⟩
  have hexec := exec_idle i (.block dir) s hb (workOf_block i dir hmem)
  refine ⟨s.issue (.block dir), _, hexec, Quiet.run 34 _ hquiet, ?_⟩
  have hsk : (filledTo (keyHalves s.key) 16 s.sk).toList = keySchedule s.key := filledTo_full _ _
  rw [hissue, iterate_blockCommand _ rfl rfl rfl rfl rfl, desWithKey, ← hsk]
  exact ⟨rfl, rfl⟩

/-! ### The steps a command has left -/

section
variable (s : State)

/-! R148, R265, phase by phase. -/

theorem stepsLeft_idle (h : s.phase = .idle) : stepsLeft s = 0 := by
  unfold stepsLeft; rw [h]
theorem stepsLeft_ks (h : s.phase = .ks) : stepsLeft s = (16 - s.round.toNat) + 18 * s.nblk.toNat := by
  unfold stepsLeft; rw [h]
theorem stepsLeft_load (h : s.phase = .load) : stepsLeft s = 18 * (s.nblk.toNat - s.blkIdx.toNat) := by
  unfold stepsLeft; rw [h]
theorem stepsLeft_rnd (h : s.phase = .rnd) :
    stepsLeft s = (16 - s.round.toNat) + 1 + 18 * (s.nblk.toNat - s.blkIdx.toNat - 1) := by
  unfold stepsLeft; rw [h]
theorem stepsLeft_store (h : s.phase = .store) :
    stepsLeft s = 1 + 18 * (s.nblk.toNat - s.blkIdx.toNat - 1) := by
  unfold stepsLeft; rw [h]

/-- In a sound state no step is left exactly when the engine is idle. -/
theorem stepsLeft_eq_zero_iff (h : Inv s) : stepsLeft s = 0 ↔ s.busy = false := by
  obtain ⟨-, -, ⟨hbusy, -⟩, ⟨-, hks, -, -, -, hblock⟩, -⟩ := h
  have hidle : s.busy = false ↔ s.phase = .idle := by rw [← Bool.not_eq_true, hbusy, not_not]
  rw [hidle]
  cases hp : s.phase with
  | idle => simp [stepsLeft_idle s hp]
  | ks =>
    obtain ⟨hr, -⟩ := hks hp
    simp only [stepsLeft_ks s hp, reduceCtorEq, iff_false]
    omega
  | load =>
    obtain ⟨-, hlt⟩ := hblock (.inl hp)
    simp only [stepsLeft_load s hp, reduceCtorEq, iff_false]
    omega
  | rnd => simp [stepsLeft_rnd s hp]
  | store => simp [stepsLeft_store s hp]

/-- After the key schedule the steps left are those of the blocks (R107). -/
theorem stepsLeft_endSchedule (h : CommandOk s) (hi : s.blkIdx = 0#32) :
    stepsLeft s.endSchedule = 18 * s.nblk.toNat := by
  by_cases hend : s.curOp = .keygen ∨ s.nblk = 0#32
  · obtain ⟨-, -, hkeygen, -⟩ := h
    have hn : s.nblk = 0#32 := hend.elim hkeygen id
    rw [State.endSchedule_finish s hend, stepsLeft_idle _ rfl, hn]
    rfl
  · rw [State.endSchedule_load s hend, stepsLeft_load _ rfl]
    simp [hi]

/-- After a block the steps left are those of the blocks behind it (R146). -/
theorem stepsLeft_endStore (h : s.blkIdx.toNat < s.nblk.toNat) :
    stepsLeft s.endStore = 18 * (s.nblk.toNat - s.blkIdx.toNat - 1) := by
  have hn := s.nblk.isLt
  have hnext : (s.blkIdx + 1#32).toNat = s.blkIdx.toNat + 1 := by bv_omega
  by_cases hend : s.blkIdx + 1#32 = s.nblk
  · rw [State.endStore_finish s hend, stepsLeft_idle _ rfl, ← hend, hnext]
    omega
  · rw [State.endStore_load s hend, stepsLeft_load _ rfl]
    simp only [hnext]
    omega

/-- Each engine step of a running command uses up one step, phase by phase. -/
theorem stepsLeft_engineStep (h : Inv s) (hrun : s.phase ≠ .idle) :
    stepsLeft s.engineStep + 1 = stepsLeft s := by
  obtain ⟨-, -, -, ⟨-, hks, -, hrnd, -, hblock⟩, hcmd⟩ := h
  cases hp : s.phase with
  | idle => exact absurd hp hrun
  | ks =>
    obtain ⟨hr, -, hi⟩ := hks hp
    rw [State.engineStep_ks s hp, s.ksStep_eq hr, stepsLeft_ks s hp]
    split
    · rename_i hlast
      rw [stepsLeft_endSchedule s.ksRound hcmd hi, show s.ksRound.nblk = s.nblk from rfl]
      omega
    · rw [stepsLeft_ks s.ksRound hp, show s.ksRound.round.toNat = s.round.toNat + 1 from s.round_succ_toNat hr,
        show s.ksRound.nblk = s.nblk from rfl]
      omega
  | load =>
    obtain ⟨-, hlt⟩ := hblock (.inl hp)
    rw [State.engineStep_load s hp, stepsLeft_rnd s.loadStep rfl, stepsLeft_load s hp]
    simp only [State.loadStep_round, State.loadStep_nblk, State.loadStep_blkIdx, BitVec.toNat_zero]
    omega
  | rnd =>
    have hr := hrnd hp
    have hnext := s.round_succ_toNat hr
    rw [State.engineStep_rnd s hp, s.rndStep_eq hr, stepsLeft_rnd s hp]
    by_cases hlast : s.round.toNat + 1 = 16
    · rw [stepsLeft_store _ (if_pos hlast)]
      simp only
      omega
    · rw [stepsLeft_rnd _ ((if_neg hlast).trans hp)]
      simp only [hnext]
      omega
  | store =>
    obtain ⟨-, hlt⟩ := hblock (.inr (.inr hp))
    rw [State.engineStep_store s hp, State.storeStep, stepsLeft_endStore (s.storeBlock _) hlt, stepsLeft_store s hp]
    simp only [State.storeBlock_nblk, State.storeBlock_blkIdx]
    omega

end

/-- Settles O56: one step fewer is left, and none is left exactly when the command has ended. -/
theorem stepsLeftCountDown : Obligations.StepsLeftCountDown := by
  unfold Obligations.StepsLeftCountDown
  intro s h hb
  have ⟨_, _, ⟨hbusy, _⟩, _⟩ := h
  have hstep := stepsLeft_engineStep s h (hbusy.mp hb)
  refine ⟨hstep, ?_⟩
  rw [← stepsLeft_eq_zero_iff _ (inv_engineStep s h)]
  omega

end Sys2Proof.Machine
end

section
/-! PROOFS. The codec: padding ends on a block boundary, blocks do not reach each other, decryption undoes encryption,
and CRYPT computes it in MBUF. -/

namespace Sys2Proof.Machine

/-! ### Padding -/

/-- A padded message is a whole number of blocks (R163, R165, R169). -/
theorem length_padMessage_encrypt (m p : List Byte) (pad : PadCfg) (h : padMessage m .encrypt pad = .ok p) :
    p.length % 8 = 0 := by
  cases hmode : pad.mode with
  | pkcs7 =>
    simp only [padMessage, hmode, Except.ok.injEq] at h
    subst h
    simp only [padPkcs7, List.length_append, List.length_replicate]
    omega
  | fill =>
    simp only [padMessage, hmode, padFill] at h
    split at h
    · cases h
      assumption
    · split at h
      · cases h
        simp only [List.length_append, List.length_replicate]
        omega
      · cases h

/-- Settles O27: padding fills the last block, so no operands reach the alignment check with a part of one. -/
theorem alignmentErrorIsUnreachable : Obligations.AlignmentErrorIsUnreachable := by
  unfold Obligations.AlignmentErrorIsUnreachable
  exact ⟨length_padMessage_encrypt, fun cap cmd keyLen msgLen pad h =>
    check_ne_alignmentError cap cmd keyLen msgLen pad _ h rfl⟩

/-! ### The block loop -/

/-- A block that lies in the first of two byte strings. -/
theorem messageBlock_append_left (p q : List Byte) (b : Nat) (h : 8 * b + 8 ≤ p.length) :
    messageBlock (p ++ q) b = messageBlock p b := by
  unfold messageBlock
  rw [List.drop_append_of_le_length (by omega), List.take_append_of_le_length (by simp only [List.length_drop]; omega)]

/-- A block of the second of two byte strings, the first being `n` blocks long. -/
theorem messageBlock_append_right (p q : List Byte) (n b : Nat) (h : p.length = 8 * n) :
    messageBlock (p ++ q) (n + b) = messageBlock q b := by
  unfold messageBlock
  rw [Nat.mul_add, ← h, List.drop_length_add_append]

/-- No block, no output (R160). -/
theorem cryptBlocks_nil (dir : Direction) (k : Block) : cryptBlocks [] dir k = [] := by
  simp [cryptBlocks]

/-- The codec gives a block for each whole block it is given (R167). -/
theorem length_cryptBlocks (p : List Byte) (dir : Direction) (k : Block) :
    (cryptBlocks p dir k).length = 8 * (p.length / 8) := by
  simp [cryptBlocks, Nat.mul_comm]

/-- The codec of a byte string cut at a block boundary is that of its parts (R167, R171). -/
theorem cryptBlocks_append (p q : List Byte) (dir : Direction) (k : Block) (hp : p.length % 8 = 0) :
    cryptBlocks (p ++ q) dir k = cryptBlocks p dir k ++ cryptBlocks q dir k := by
  have hlen : p.length = 8 * (p.length / 8) := by omega
  have hcount : (p ++ q).length / 8 = p.length / 8 + q.length / 8 := by
    rw [List.length_append]
    omega
  unfold cryptBlocks
  rw [hcount, List.range_add, List.flatMap_append, List.flatMap_map]
  refine congrArg₂ (· ++ ·) (List.flatMap_congr fun b hb => ?_) (List.flatMap_congr fun b _ => ?_)
  · have hlt := List.mem_range.mp hb
    rw [messageBlock_append_left p q b (by omega)]
  · rw [messageBlock_append_right p q _ b hlen]

/-- The codec of one block is its transform (R160). -/
theorem cryptBlocks_block (x : List Byte) (dir : Direction) (k : Block) (hx : x.length = 8) :
    cryptBlocks x dir k = bytesOf 8 (desWithKey (packBytes 64 x) k dir) := by
  simp [cryptBlocks, messageBlock, hx, List.take_of_length_le]

/-- The codec transforms the first block and goes on with the rest (R160, R167). -/
theorem cryptBlocks_block_append (x q : List Byte) (dir : Direction) (k : Block) (hx : x.length = 8) :
    cryptBlocks (x ++ q) dir k = bytesOf 8 (desWithKey (packBytes 64 x) k dir) ++ cryptBlocks q dir k := by
  rw [cryptBlocks_append x q dir k (by omega), cryptBlocks_block x dir k hx]

/-- Block `b` of the output is the transform of block `b` of the input: of what precedes it only the length counts
(R171). -/
theorem take_drop_cryptBlocks (p : List Byte) (dir : Direction) (k : Block) (b : Nat) (hb : b < p.length / 8) :
    ((cryptBlocks p dir k).drop (8 * b)).take 8 = bytesOf 8 (desWithKey (messageBlock p b) k dir) := by
  have hbefore : (p.take (8 * b)).length = 8 * b := by
    rw [List.length_take]
    omega
  have hblock : ((p.drop (8 * b)).take 8).length = 8 := by
    rw [List.length_take, List.length_drop]
    omega
  have hcut : cryptBlocks p dir k = cryptBlocks (p.take (8 * b)) dir k ++
      (bytesOf 8 (desWithKey (messageBlock p b) k dir) ++ cryptBlocks ((p.drop (8 * b)).drop 8) dir k) := by
    rw [messageBlock, ← cryptBlocks_block_append _ _ dir k hblock, List.take_append_drop,
      ← cryptBlocks_append _ _ dir k (by omega), List.take_append_drop]
  rw [hcut, List.drop_left' (by rw [length_cryptBlocks, hbefore]; omega), List.take_left' (length_bytesOf 8 _)]

/-- Settles O41: the codec cut at a block boundary, its length, and its blocks one by one. -/
theorem blocksAreIndependent : Obligations.BlocksAreIndependent := by
  unfold Obligations.BlocksAreIndependent
  intro p q dir k hp _
  refine ⟨cryptBlocks_append p q dir k hp, ?_, take_drop_cryptBlocks p dir k⟩
  rw [length_cryptBlocks]
  omega

/-! ### Decrypting an encryption -/

/-- Decrypting the encryption of whole blocks returns them, block by block (R147, R172). -/
theorem cryptBlocks_decrypt_encrypt (p : List Byte) (k : Block) (hp : p.length % 8 = 0) :
    cryptBlocks (cryptBlocks p .encrypt k) .decrypt k = p := by
  obtain ⟨n, hn⟩ := Nat.dvd_of_mod_eq_zero hp
  induction n generalizing p with
  | zero =>
    rw [List.eq_nil_of_length_eq_zero hn, cryptBlocks_nil, cryptBlocks_nil]
  | succ n ih =>
    have hhead : (p.take 8).length = 8 := by
      rw [List.length_take]
      omega
    have htail : (p.drop 8).length = 8 * n := by
      rw [List.length_drop]
      omega
    have hblock : desWithKey (desWithKey (packBytes 64 (p.take 8)) k .encrypt) k .decrypt = packBytes 64 (p.take 8) :=
      des_des _ _ .encrypt .decrypt fun r _ _ => subkeyFor_decrypt _ r
    have hbytes : bytesOf 8 (packBytes 64 (p.take 8)) = p.take 8 := by
      simpa only [hhead] using bytesOf_packBytes 64 (p.take 8) (by rw [hhead])
    calc cryptBlocks (cryptBlocks p .encrypt k) .decrypt k
        = cryptBlocks (cryptBlocks (p.take 8 ++ p.drop 8) .encrypt k) .decrypt k := by rw [List.take_append_drop]
      _ = p.take 8 ++ cryptBlocks (cryptBlocks (p.drop 8) .encrypt k) .decrypt k := by
          rw [cryptBlocks_block_append _ _ _ k hhead, cryptBlocks_block_append _ _ _ k (length_bytesOf 8 _),
            packBytes_bytesOf, hblock, hbytes]
      _ = p := by rw [ih _ (by omega) htail, List.take_append_drop]

/-- A successful encryption is the block loop over the padded message (R160). -/
theorem crypt_ok (m c : List Byte) (dir : Direction) (k : Block) (pad : PadCfg) (h : crypt m dir k pad = .ok c) :
    ∃ p, padMessage m dir pad = .ok p ∧ c = cryptBlocks p dir k := by
  unfold crypt at h
  split at h
  · cases h
  · rename_i p hpad
    cases h
    exact ⟨p, hpad, rfl⟩

/-- Decryption pads nothing, whatever the pad setting is (R160, R172). -/
theorem crypt_decrypt (c : List Byte) (k : Block) (pad : PadCfg) :
    crypt c .decrypt k pad = .ok (cryptBlocks c .decrypt k) := rfl

/-- Settles O42: what was encrypted is the padded message, whose length is a whole number of blocks. -/
theorem codecRoundTrip : Obligations.CodecRoundTrip := by
  unfold Obligations.CodecRoundTrip
  intro m c k pad pad' h
  obtain ⟨p, hpad, rfl⟩ := crypt_ok m c .encrypt k pad h
  refine ⟨p, hpad, ?_⟩
  rw [crypt_decrypt, cryptBlocks_decrypt_encrypt p k (length_padMessage_encrypt m p pad hpad)]

/-! ### CRYPT -/

/-- The two CRYPT commands and their directions (R203). -/
theorem workOf_crypt : ∀ c ∈ [(Instr.cryptE, Direction.encrypt), (.cryptD, .decrypt)],
    workOf c.1 = some (.crypt c.2) := by decide

/-- A CRYPT with a quiet host, from its issue to Finish (R203, R265). -/
theorem run_issued_crypt (s : State) (dir : Direction) (n : Nat) (pv : Byte) (hp : s.params.wf = true)
    (hm : s.mbuf.wf = true) (hhost : s.host = []) (hk : s.checkIssue (.crypt dir) = .ok (n, pv)) :
    ∃ v, BlocksDone (s.issue (.crypt dir)).scheduled n v ∧
      Host.Core.run Sys2Proof.core (16 + 18 * n) (s.issue (.crypt dir)) = .next v.finish := by
  have hquiet : Quiet (s.issue (.crypt dir)) := by
    rw [issue_ok s _ n pv hk]
    exact ⟨hhost, by simp⟩
  obtain ⟨v, hblocks, hiter⟩ := iterate_issued_crypt s dir n pv hp hm hk
  refine ⟨v, hblocks, ?_⟩
  rw [Nat.add_comm, ← hiter]
  exact Quiet.run _ _ hquiet

/-- Settles O46: the blocks stored are the codec's output, and the rest of the final state is that of the issue and of
Finish. -/
theorem cryptComputesTheCodec : Obligations.CryptComputesTheCodec := by
  unfold Obligations.CryptComputesTheCodec
  intro s i dir n pv hmem hp hm hb hhost hk
  obtain ⟨-, -, -, hfit, -⟩ := check_ok _ _ _ _ _ _ _ hk
  have hn := toNat_blockCount s.params n hp hfit
  obtain ⟨v, ⟨l, r, round, hv⟩, hrun⟩ := run_issued_crypt s dir n pv hp hm hhost hk
  rw [issue_ok s _ n pv hk] at hv
  refine ⟨s.issue (.crypt dir), v.finish, _, exec_idle i (.crypt dir) s hb (workOf_crypt _ hmem), hrun,
    crypt_of_checkIssue s dir n pv hk, State.length_streamBlocks _ n, ?_⟩
  rw [hv]
  refine ⟨?_, fun a ha => ?_, ?_, hn, rfl, rfl, rfl, rfl, rfl, rfl, rfl, filledTo_full _ _,
    rfl, rfl, rfl, rfl, rfl, rfl, rfl, rfl⟩
  · rw [← State.length_streamBlocks (s.start (.crypt dir) n pv).scheduled n]
    exact Memory.readBytes_writeBytes s.mbuf 0 _ hm
  · exact Memory.read_writeBytes_after s.mbuf 0 _ a hm (by simpa using ha)
  · rw [State.finish_outLen, toNat_finishedLength_crypt]
    exacts [congrArg (8 * ·) hn, rfl, hp, (congrArg (8 * ·) hn).trans_le hfit]

end Sys2Proof.Machine
end

section
/-! PROOFS. The commands: how a step comes to run one, what each leaves when it is issued, and in which order an issue
fails. -/

namespace Sys2Proof.Machine

open Sys2Proof.Safety

/-! ### Which step is taken -/

/-- Where the engine moves, the step is the engine's (R191). -/
theorem step_of_nextAgent_engine (s : State) (h : nextAgent s = some .engine) :
    step s = .next s.takeTurn.engineStep := by
  unfold step transition
  rw [h]

/-- With no agent to move, the state is held (R240, log 7). -/
theorem step_of_nextAgent_none (s : State) (h : nextAgent s = none) : step s = .next s := by
  unfold step transition
  rw [h]

/-- With nothing for the host to do there is no choice, and no turn is used up. -/
theorem takeTurn_of_host_nil (s : State) (h : s.host = []) : s.takeTurn = s := by
  simp [State.takeTurn, h]

/-- The host's next access is made with the list behind it (R87). -/
theorem hostMove_access (s : State) (t : Access) (rest : List HostOp) (h : s.host = .access t :: rest) :
    hostMove s = busAccess t { s with host := rest } := by
  unfold hostMove
  rw [h]

/-- A write to `CMD` of a word that decodes is its command (R190). -/
theorem commandWrite_of_decode {w : Word} {i : Instr} (s : State) (h : decode w = .ok i) :
    commandWrite w s = exec i s := by
  simp only [commandWrite, h]

/-- Settles O4: the host's operation is an access that reaches `CMD`. -/
theorem stepRunsThePresentedCommand : Obligations.StepRunsThePresentedCommand := by
  unfold Obligations.StepRunsThePresentedCommand
  intro s w i rest hhost hnext hdecode
  rw [step_of_nextAgent_host s hnext,
    hostMove_access s.takeTurn (Access.command w) rest (by rw [State.takeTurn_host, hhost]),
    busAccess_command, commandWrite_of_decode _ hdecode]

/-- Settles O5: the very next step writes the word to `CMD`. -/
theorem stepRunsTheFetchedWord : Obligations.StepRunsTheFetchedWord := by
  unfold Obligations.StepRunsTheFetchedWord
  intro s w i hdecode
  rw [step_withFetchWord, commandWrite_of_decode s hdecode]

/-- Settles O7: with an empty host list, `BUSY` alone says whether the engine moves. -/
theorem engineStepsWhileBusyAndHoldsWhileIdle : Obligations.EngineStepsWhileBusyAndHoldsWhileIdle := by
  unfold Obligations.EngineStepsWhileBusyAndHoldsWhileIdle
  intro s
  refine ⟨step_of_nextAgent_engine s, fun hhost hb => ?_, fun hhost hb => ?_⟩
  · rw [step_of_nextAgent_engine s (by simp [nextAgent, hb, hhost]), takeTurn_of_host_nil s hhost]
  · exact step_of_nextAgent_none s (by simp [nextAgent, hb, hhost])

/-! ### No refusal -/

/-- A host operation is never refused: an access faults or is taken, and the others always answer a state. -/
theorem hostMove_ne_refused (s : State) (r : Refusal) : hostMove s ≠ .refused r := by
  unfold hostMove
  split
  case h_2 t rest hhost =>
    obtain ⟨-, hfault⟩ | ⟨-, u, hnext⟩ := busAccess_cases t { s with host := rest }
    · simp [hfault]
    · simp [hnext]
  all_goals simp

/-- Settles O9, agent by agent. -/
theorem noStepIsRefused : Obligations.NoStepIsRefused := by
  unfold Obligations.NoStepIsRefused
  intro s r
  cases hnext : nextAgent s with
  | none => simp [step_of_nextAgent_none s hnext]
  | some agent =>
    cases agent with
    | host =>
      rw [step_of_nextAgent_host s hnext]
      exact hostMove_ne_refused s.takeTurn r
    | engine => simp [step_of_nextAgent_engine s hnext]

/-! ### NOP and CLEAR -/

/-- Settles O17: an idle NOP is `acknowledge` and `complete`; the example is computed. -/
theorem nopClearsTheErrorIndication : Obligations.NopClearsTheErrorIndication := by
  unfold Obligations.NopClearsTheErrorIndication
  exact ⟨exec_nop_idle, by decide, exec_nop_idle _ rfl, by decide⟩

/-- Settles O22: a soft reset is the power-on state but for MBUF and the model's own fields. -/
theorem clearResetsEverythingButTheBuffer : Obligations.ClearResetsEverythingButTheBuffer := by
  unfold Obligations.ClearResetsEverythingButTheBuffer
  exact exec_clear

/-! ### The issue of a datapath command -/

section
variable (i : Instr) (cmd : Work) (s : State) (hb : s.busy = false) (hi : workOf i = some cmd)

include hb hi

/-- An issue that fails its check changes four fields (R222). -/
theorem exec_of_checkIssue_error (e : ErrCode) (hk : s.checkIssue cmd = .error e) :
    exec i s = .next { s with err := true, errCode := e, done := true, outLen := 0#32 } := by
  rw [exec_idle i cmd s hb hi, issue_error s cmd e hk]
  rfl

/-- An issue that passes its check starts the key schedule with the latches of the command (R193, R103). -/
theorem exec_of_checkIssue_ok (n : Nat) (pv : Byte) (hk : s.checkIssue cmd = .ok (n, pv)) :
    exec i s = .next { s with
      busy := true, done := false, err := false, errCode := .none, outLen := 0#32, curOp := cmd.curOp,
      curDir := cmd.curDir, nblk := BitVec.ofNat 32 n, padv := pv, lenL := s.msgLen, ksValid := false, blkIdx := 0#32,
      c := (keyHalves s.key).1, d := (keyHalves s.key).2, round := 0#5, phase := .ks } := by
  rw [exec_idle i cmd s hb hi, issue_ok s cmd n pv hk]
  rfl

end

/-- The key length is checked first, for every command (R192). -/
theorem checkIssue_of_keyLen_ne (s : State) (cmd : Work) (h : s.keyLen ≠ 8#8) :
    s.checkIssue cmd = .error .invalidKeyLength := by
  unfold State.checkIssue check
  rw [if_pos h]

/-- The commands that take a key are those with a datapath (R192). -/
theorem exists_workOf_of_takesKey :
    ∀ i ∈ [Instr.keygen, .blockE, .blockD, .cryptE, .cryptD], ∃ cmd, workOf i = some cmd := by
  simp [workOf]

/-- Settles O24: the key length is the first check of each. -/
theorem wrongKeyLengthFails : Obligations.WrongKeyLengthFails := by
  unfold Obligations.WrongKeyLengthFails
  intro i s hmem hb hk
  obtain ⟨cmd, hi⟩ := exists_workOf_of_takesKey i hmem
  exact exec_of_checkIssue_error i cmd s hb hi _ (checkIssue_of_keyLen_ne s cmd hk)

/-- Settles O18: with an 8-byte key the check of KEYGEN passes. -/
theorem keygenIssueStartsTheSchedule : Obligations.KeygenIssueStartsTheSchedule := by
  unfold Obligations.KeygenIssueStartsTheSchedule
  intro s hb hk
  exact exec_of_checkIssue_ok .keygen .keygen s hb rfl 0 0#8 (checkIssue_keygen s hk)

/-- Settles O19: with an 8-byte key the check of BLOCK passes, since one block fits. -/
theorem blockIssueStartsTheSchedule : Obligations.BlockIssueStartsTheSchedule := by
  unfold Obligations.BlockIssueStartsTheSchedule
  intro s i dir hmem hp hb hk
  exact exec_of_checkIssue_ok i (.block dir) s hb (workOf_block i dir hmem) 1 0#8 (checkIssue_block s dir hp hk)

/-! ### The check of CRYPT -/

/-- The block count of CRYPT.E, by the padding mode (R164). -/
theorem blockCount_encrypt (pad : PadCfg) (m : Nat) :
    blockCount (.crypt .encrypt) pad m = if pad.mode = .fill then (m + 7) / 8 else m / 8 + 1 := by
  unfold blockCount
  cases pad.mode <;> rfl

/-- A PKCS#7 pad byte is the number of pad bytes: what the last block lacks (R164, R165). -/
theorem padValue_pkcs7 (pad : PadCfg) (m : Nat) (h : pad.mode = .pkcs7) :
    padValue (.crypt .encrypt) pad m = BitVec.ofNat 8 (8 - m % 8) := by
  have hcount : 8 * (m / 8 + 1) - m = 8 - m % 8 := by omega
  simp only [padValue, blockCount_encrypt, h, reduceCtorEq, if_false, hcount]

/-- A pad byte is given with a length other than 1, in mode 0 (R192, log 21). -/
def BadPadLength (pad : PadCfg) : Prop := pad.mode = .fill ∧ pad.present = true ∧ pad.len ≠ 1#8

/-- A last block is to be filled up in mode 0 and no pad byte is given (R192). -/
def MissingPadByte (pad : PadCfg) (m : Nat) : Prop := pad.mode = .fill ∧ pad.present = false ∧ m % 8 ≠ 0

section
variable (s : State) (hk : s.keyLen = 8#8)

include hk

/-- The first check of CRYPT after that of the key (R192). -/
theorem checkIssue_crypt_badPadLength (dir : Direction) (h : BadPadLength s.padcfg) :
    s.checkIssue (.crypt dir) = .error .invalidPadding := by
  obtain ⟨hmode, hpresent, hlen⟩ := h
  simp [State.checkIssue, check, hk, Work.curOp, hmode, hpresent, hlen]

/-- The second check, of CRYPT.D only (R173, R192). -/
theorem checkIssue_decrypt_malformed (hpad : ¬BadPadLength s.padcfg) (h : s.msgLen.toNat % 8 ≠ 0) :
    s.checkIssue (.crypt .decrypt) = .error .malformedCiphertext := by
  unfold State.checkIssue check
  rw [if_neg (by simpa using hk), if_neg (fun hc => hpad hc.2), if_pos ⟨rfl, h⟩]

/-- The third check, of CRYPT.E only (R163, R192). -/
theorem checkIssue_encrypt_missingPad (hpad : ¬BadPadLength s.padcfg) (h : MissingPadByte s.padcfg s.msgLen.toNat) :
    s.checkIssue (.crypt .encrypt) = .error .invalidPadding := by
  obtain ⟨hmode, hpresent, hpart⟩ := h
  unfold State.checkIssue check
  rw [if_neg (by simpa using hk), if_neg (fun hc => hpad hc.2), if_neg (by simp), if_pos ⟨rfl, hmode, hpart, hpresent⟩]

/-- With the padding in order, what is left to check is the length: the alignment check is never taken (R169, R192). -/
theorem checkIssue_crypt_length (dir : Direction) (hpad : ¬BadPadLength s.padcfg)
    (hdec : dir = .decrypt → s.msgLen.toNat % 8 = 0)
    (henc : dir = .encrypt → ¬MissingPadByte s.padcfg s.msgLen.toNat) :
    s.checkIssue (.crypt dir) =
      if s.params.msgBytes < 8 * blockCount (.crypt dir) s.padcfg s.msgLen.toNat then .error .lengthError
      else .ok (blockCount (.crypt dir) s.padcfg s.msgLen.toNat, padValue (.crypt dir) s.padcfg s.msgLen.toNat) := by
  have halign : ¬((Work.crypt dir).curOp = .crypt ∧
      (s.msgLen.toNat + padCount (.crypt dir) s.padcfg s.msgLen.toNat) % 8 ≠ 0) := fun hc =>
    hc.2 (crypt_padded_length (.crypt dir) s.padcfg s.msgLen.toNat rfl (by simpa using hdec))
  unfold State.checkIssue check
  rw [if_neg (by simpa using hk), if_neg (fun hc => hpad hc.2), if_neg (by simpa using hdec),
    if_neg (fun ⟨hd, hmode, hpart, hpresent⟩ => henc (by simpa using hd) ⟨hmode, hpresent, hpart⟩),
    if_neg halign]

end

/-- Settles O20: neither padding check nor the length check applies, and the latches are those of the mode. -/
theorem cryptEncryptIssueStartsTheSchedule : Obligations.CryptEncryptIssueStartsTheSchedule := by
  unfold Obligations.CryptEncryptIssueStartsTheSchedule
  intro s n pv hb hk hfit hcfg
  refine exec_of_checkIssue_ok .cryptE (.crypt .encrypt) s hb rfl n pv ?_
  obtain ⟨hmode, hlen, halign, rfl, rfl⟩ | ⟨hmode, rfl, rfl⟩ := hcfg
  · have hpad : ¬BadPadLength s.padcfg := fun ⟨_, hpresent, hne⟩ => hne (hlen hpresent)
    have hgiven : ¬MissingPadByte s.padcfg s.msgLen.toNat := by
      rintro ⟨-, hpresent, hpart⟩
      simp [hpresent, hpart] at halign
    rw [checkIssue_crypt_length s hk .encrypt hpad (by simp) fun _ => hgiven, blockCount_encrypt, if_pos hmode,
      if_neg (by omega)]
    simp only [padValue, hmode]
  · have hother : s.padcfg.mode ≠ .fill := by simp [hmode]
    rw [checkIssue_crypt_length s hk .encrypt (fun h => hother h.1) (by simp) fun _ h => hother h.1,
      blockCount_encrypt, if_neg hother, if_neg (by omega), padValue_pkcs7 _ _ hmode]

/-- Settles O21: no check applies to an aligned length that fits. -/
theorem cryptDecryptIssueStartsTheSchedule : Obligations.CryptDecryptIssueStartsTheSchedule := by
  unfold Obligations.CryptDecryptIssueStartsTheSchedule
  intro s hb hk hlen halign hfit
  have hpad : ¬BadPadLength s.padcfg := fun ⟨hmode, hpresent, hne⟩ => hne (hlen hmode hpresent)
  refine exec_of_checkIssue_ok .cryptD (.crypt .decrypt) s hb rfl (s.msgLen.toNat / 8) 0#8 ?_
  rw [checkIssue_crypt_length s hk .decrypt hpad (fun _ => halign) (by simp)]
  exact if_neg (by simp only [blockCount]; omega)

/-- An issue that passes its check leaves a running engine and no error (R193). -/
theorem exec_starts (i : Instr) (cmd : Work) (s : State) (n : Nat) (pv : Byte) (hb : s.busy = false)
    (hi : workOf i = some cmd) (hk : s.checkIssue cmd = .ok (n, pv)) :
    ∃ t, exec i s = .next t ∧ t.busy = true ∧ t.err = false :=
  ⟨_, exec_of_checkIssue_ok i cmd s hb hi n pv hk, rfl, rfl⟩

/-- Settles O25, check by check. -/
theorem cryptEncryptFailsInOrder : Obligations.CryptEncryptFailsInOrder := by
  unfold Obligations.CryptEncryptFailsInOrder
  intro s hb hk fails n
  have hfails := exec_of_checkIssue_error .cryptE (.crypt .encrypt) s hb rfl
  split
  case isTrue hbad => exact hfails _ (checkIssue_crypt_badPadLength s hk .encrypt hbad)
  case isFalse hpad =>
    split
    case isTrue hmissing => exact hfails _ (checkIssue_encrypt_missingPad s hk hpad hmissing)
    case isFalse hgiven =>
      have hlength := checkIssue_crypt_length s hk .encrypt hpad (by simp) fun _ => hgiven
      rw [blockCount_encrypt] at hlength
      split
      case isTrue hlong => exact hfails _ (hlength.trans (if_pos hlong))
      case isFalse hfit => exact exec_starts .cryptE (.crypt .encrypt) s _ _ hb rfl (hlength.trans (if_neg hfit))

/-- Settles O26, check by check. -/
theorem cryptDecryptFailsInOrder : Obligations.CryptDecryptFailsInOrder := by
  unfold Obligations.CryptDecryptFailsInOrder
  intro s hb hk fails
  have hfails := exec_of_checkIssue_error .cryptD (.crypt .decrypt) s hb rfl
  split
  case isTrue hbad => exact hfails _ (checkIssue_crypt_badPadLength s hk .decrypt hbad)
  case isFalse hpad =>
    split
    case isTrue hpart => exact hfails _ (checkIssue_decrypt_malformed s hk hpad hpart)
    case isFalse hwhole =>
      have halign : s.msgLen.toNat % 8 = 0 := not_not.mp hwhole
      have hcount : 8 * blockCount (.crypt .decrypt) s.padcfg s.msgLen.toNat = s.msgLen.toNat := by
        simp only [blockCount]
        omega
      have hlength := checkIssue_crypt_length s hk .decrypt hpad (fun _ => halign) (by simp)
      rw [hcount] at hlength
      split
      case isTrue hlong => exact hfails _ (hlength.trans (if_pos hlong))
      case isFalse hfit => exact exec_starts .cryptD (.crypt .decrypt) s _ _ hb rfl (hlength.trans (if_neg hfit))

/-! ### What the issue of a command leaves unchanged -/

/-- Settles O29: the frame of each way a command's write can end. -/
theorem commandIssueFrame : Obligations.CommandIssueFrame := by
  unfold Obligations.CommandIssueFrame
  intro i s t h
  obtain ⟨rfl, rfl⟩ | ⟨hi, hb, rfl⟩ | ⟨rfl, -, rfl⟩ | ⟨cmd, e, hi, -, -, rfl⟩ | ⟨cmd, n, pv, hi, -, -, rfl⟩ :=
    exec_cases i s t h
  · simp
  · simp [hb]
  · simp
  · have hnop : i ≠ .nop := by rintro rfl; cases hi
    simp [hnop]
  · have hnop : i ≠ .nop := by rintro rfl; cases hi
    simp [hnop]

end Sys2Proof.Machine
end

section
/-! PROOFS. Composition: the stages of a double and a triple encryption are undone by those of the decryption. -/

namespace Sys2Proof.Machine

/-- What was padded is encrypted block by block (R160). -/
theorem crypt_of_padMessage {m p : List Byte} {dir : Direction} {pad : PadCfg} (k : Block)
    (h : padMessage m dir pad = .ok p) : crypt m dir k pad = .ok (cryptBlocks p dir k) := by
  unfold crypt
  rw [h]

/-- A stage after the first encrypts whole blocks as they are: it has no pad byte and needs none (R205). -/
theorem nextStage_encrypt (x : List Byte) (k : Block) (hx : x.length % 8 = 0) :
    nextStage (.ok x) .encrypt k = .ok (cryptBlocks x .encrypt k) := by
  have hpad : padMessage x .encrypt PadCfg.absent = .ok x := by
    simp [padMessage, padFill, PadCfg.absent, hx]
  exact crypt_of_padMessage k hpad

/-- A stage that decrypts (R206). -/
theorem nextStage_decrypt (x : List Byte) (k : Block) :
    nextStage (.ok x) .decrypt k = .ok (cryptBlocks x .decrypt k) := rfl

/-- A stage gives whole blocks (R167). -/
theorem length_cryptBlocks_mod (x : List Byte) (dir : Direction) (k : Block) :
    (cryptBlocks x dir k).length % 8 = 0 := by
  rw [length_cryptBlocks, Nat.mul_mod_right]

section
variable (m p : List Byte) (k1 k2 : Block) (pad : Option PadCfg)
  (hpad : padMessage m .encrypt (pad.getD PadCfg.default) = .ok p)

include hpad

/-- Both stages of a double encryption, on the padded message (R205). -/
theorem doubleEncrypt_of_padMessage :
    doubleEncrypt m k1 k2 pad = .ok (cryptBlocks (cryptBlocks p .encrypt k1) .encrypt k2) := by
  unfold doubleEncrypt
  rw [crypt_of_padMessage k1 hpad, nextStage_encrypt _ k2 (length_cryptBlocks_mod p .encrypt k1)]

/-- A triple encryption is a double one with one more stage (R207). -/
theorem tripleEncrypt_of_padMessage (k3 : Option Block) :
    tripleEncrypt m k1 k2 k3 pad =
      .ok (cryptBlocks (cryptBlocks (cryptBlocks p .encrypt k1) .encrypt k2) .encrypt (k3.getD k1)) := by
  change nextStage (doubleEncrypt m k1 k2 pad) .encrypt (k3.getD k1) = _
  rw [doubleEncrypt_of_padMessage m p k1 k2 pad hpad, nextStage_encrypt _ _ (length_cryptBlocks_mod _ .encrypt k2)]

end

/-- Double decryption undoes the two stages, the last first (R206). -/
theorem doubleDecrypt_encrypted (p : List Byte) (k1 k2 : Block) (hp : p.length % 8 = 0) :
    doubleDecrypt (cryptBlocks (cryptBlocks p .encrypt k1) .encrypt k2) k1 k2 = .ok p := by
  unfold doubleDecrypt
  rw [crypt_decrypt, cryptBlocks_decrypt_encrypt _ k2 (length_cryptBlocks_mod p .encrypt k1), nextStage_decrypt,
    cryptBlocks_decrypt_encrypt p k1 hp]

/-- A triple decryption is a double one behind one more stage (R208). -/
theorem tripleDecrypt_encrypted (p : List Byte) (k1 k2 : Block) (k3 : Option Block) (hp : p.length % 8 = 0) :
    tripleDecrypt (cryptBlocks (cryptBlocks (cryptBlocks p .encrypt k1) .encrypt k2) .encrypt (k3.getD k1)) k1 k2 k3 =
      .ok p := by
  unfold tripleDecrypt
  rw [crypt_decrypt, cryptBlocks_decrypt_encrypt _ _ (length_cryptBlocks_mod _ .encrypt k2)]
  exact doubleDecrypt_encrypted p k1 k2 hp

/-- Settles O43: a padded message is whole blocks, which every stage keeps. -/
theorem compositionRoundTrip : Obligations.CompositionRoundTrip := by
  unfold Obligations.CompositionRoundTrip
  intro m p k1 k2 k3 pad hpad
  have hp := length_padMessage_encrypt m p _ hpad
  exact ⟨⟨_, doubleEncrypt_of_padMessage m p k1 k2 pad hpad, doubleDecrypt_encrypted p k1 k2 hp⟩,
    ⟨_, tripleEncrypt_of_padMessage m p k1 k2 pad hpad k3, tripleDecrypt_encrypted p k1 k2 k3 hp⟩⟩

end Sys2Proof.Machine
end

section
/-! PROOFS. Interleaving: what a running command can see is moved by the engine's steps alone. -/

namespace Sys2Proof.Machine

open Sys2Proof.Safety

/-- A write while busy that is no CLEAR changes the overrun flag only (R257). -/
theorem WriteEffect.eq_noteOverrun {s u : State} {t : Access} (e : WriteEffect s t u) (hb : s.busy = true)
    (hc : isClearWrite t = false) : u = s.noteOverrun := by
  cases e with
  | ignored => rfl
  | cleared hclear => rw [hc] at hclear; cases hclear
  | completed hidle => rw [hb] at hidle; cases hidle
  | failed e hidle => rw [hb] at hidle; cases hidle
  | started cmd n pv hidle => rw [hb] at hidle; cases hidle
  | stored g hidle => rw [hb] at hidle; cases hidle

/-- A host access while busy that is no CLEAR changes nothing a command can see, and not the host's list (R257,
R258). -/
theorem busAccess_busy_view (t : Access) (s u : State) (hb : s.busy = true) (hc : isClearWrite t = false)
    (h : busAccess t s = .next u) : commandView u = commandView s ∧ u.host = s.host := by
  obtain ⟨-, ⟨-, v, rfl⟩ | ⟨-, e⟩⟩ := busAccess_effect t s u h
  · exact ⟨rfl, rfl⟩
  · rw [e.eq_noteOverrun hb hc]
    exact ⟨rfl, rfl⟩

/-- A host operation while busy, of a host that writes no CLEAR (R191, R257, R258). -/
theorem hostMove_busy_view (s u : State) (hb : s.busy = true) (hc : noClear s.host = true)
    (h : hostMove s = .next u) : commandView u = commandView s ∧ noClear u.host = true := by
  obtain ⟨-, rfl⟩ | ⟨t, rest, hhost, hbus⟩ | ⟨host', v, rfl, hkeep⟩ := hostMove_effect s u h
  · exact ⟨rfl, hc⟩
  · rw [hhost] at hc
    simp only [noClear, List.all_cons, Bool.and_eq_true, Bool.not_eq_true'] at hc
    obtain ⟨hclear, hrest⟩ := hc
    obtain ⟨hview, hlist⟩ := busAccess_busy_view t { s with host := rest } u hb hclear hbus
    exact ⟨hview, by rw [hlist]; exact hrest⟩
  · exact ⟨rfl, hkeep hc⟩

/-- One step of a busy machine whose host writes no CLEAR: what a command can see stays, or takes an engine step
(R191). -/
theorem step_busy_view (s u : State) (hb : s.busy = true) (hc : noClear s.host = true) (h : step s = .next u) :
    noClear u.host = true ∧
      (commandView u = commandView s ∨ commandView u = (commandView s).engineStep) := by
  obtain ⟨hidle, -⟩ | ⟨-, hmove⟩ | ⟨-, rfl⟩ := step_effect s u h
  · rw [hb] at hidle; cases hidle
  · obtain ⟨hview, hlist⟩ := hostMove_busy_view s.takeTurn u (by simpa using hb) (by simpa using hc) hmove
    exact ⟨hlist, .inl (hview.trans (commandView_takeTurn s))⟩
  · exact ⟨by simpa using hc, .inr (by rw [commandView_engineStep, commandView_takeTurn])⟩

/-- A run that answers a state has a first step, and goes on from what that answers. -/
theorem step_of_run_succ (n : Nat) (s t : State) (h : Host.Core.run Sys2Proof.core (n + 1) s = .next t) :
    ∃ u, step s = .next u ∧ Host.Core.run Sys2Proof.core n u = .next t := by
  cases hstep : step s with
  | next u => exact ⟨u, rfl, (run_next n s u hstep).symm.trans h⟩
  | fault r =>
    have hcore : Sys2Proof.core.step s = .fault r := hstep
    simp only [Host.Core.run, hcore, reduceCtorEq] at h
  | refused r => exact absurd hstep (noStepIsRefused s r)

/-- Settles O60, by induction on the steps of the machine: each leaves what a command can see, or is an engine step of
it. -/
theorem resultsDoNotDependOnInterleaving : Obligations.ResultsDoNotDependOnInterleaving := by
  unfold Obligations.ResultsDoNotDependOnInterleaving
  intro n
  induction n with
  | zero =>
    intro s t _ _ hrun
    injection hrun with hst
    exact ⟨0, le_rfl, by rw [← hst]; rfl⟩
  | succ n ih =>
    intro s t hc hbusy hrun
    obtain ⟨u, hstep, hrest⟩ := step_of_run_succ n s t hrun
    obtain ⟨hlist, hview⟩ := step_busy_view s u (hbusy 0 s (by omega) rfl) hc hstep
    obtain ⟨k, hk, hdone⟩ := ih u t hlist
      (fun m v hm hv => hbusy (m + 1) v (by omega) ((run_next m s u hstep).trans hv)) hrest
    obtain hsame | hengine := hview
    · exact ⟨k, by omega, by rw [hdone, hsame]⟩
    · exact ⟨k + 1, by omega, by rw [hdone, hengine, Function.iterate_succ_apply]⟩

end Sys2Proof.Machine
end

section
/-! PROOFS. Errors: a write to `CMD` that reports one is a failing issue, which changes four fields. -/

namespace Sys2Proof.Machine

/-- A write of a command word reaches `CMD`, whatever the capacity (R21, R23). -/
theorem targetOf_command (cap : Nat) (w : Word) :
    targetOf cap (Access.command w).off.toNat (Access.command w).width = some (.register .cmd) :=
  show targetOf cap 4 4 = some (.register .cmd) from rfl

/-- Settles O28: of the ways a write to `CMD` can end, only a failing issue leaves `ERR` set. -/
theorem errorsChangeFourFieldsOnly : Obligations.ErrorsChangeFourFieldsOnly := by
  unfold Obligations.ErrorsChangeFourFieldsOnly
  intro w s t hidle h herr
  cases commandWrite_effect w s t h with
  | ignored hbusy => simp [hidle] at hbusy
  | cleared => simp at herr
  | completed => simp at herr
  | failed e _ he =>
    obtain ⟨hnone, -⟩ := failed_error_ne s e he
    exact ⟨rfl, hnone⟩
  | started => simp at herr
  | stored g _ hg ht =>
    have hcmd : g = .register .cmd := Option.some.inj (ht.symm.trans (targetOf_command _ w))
    exact absurd hcmd hg

end Sys2Proof.Machine
end

section
/-! PROOFS. Reset and hazards: the machine after power-on, what a busy engine ignores, and when a command ends. -/

namespace Sys2Proof.Machine

open Sys2Proof.Safety

/-! ### Writes while busy -/

/-- Settles O23: `exec_busy`, command by command. -/
theorem commandsWhileBusyAreIgnored : Obligations.CommandsWhileBusyAreIgnored := by
  unfold Obligations.CommandsWhileBusyAreIgnored
  exact exec_busy

/-- A taken write while busy that is no CLEAR is ignored and noted (R257). -/
theorem busAccess_write_busy (t : Access) (s : State) (hb : s.busy = true) (hw : t.rw = .write)
    (hwf : t.wf s.params = true) (hc : isClearWrite t = false) : busAccess t s = .next s.noteOverrun := by
  obtain ⟨hfault, -⟩ | ⟨-, u, hu⟩ := busAccess_cases t s
  · rw [hwf] at hfault; cases hfault
  · obtain ⟨-, ⟨hr, -⟩ | ⟨-, e⟩⟩ := busAccess_effect t s u hu
    · rw [hw] at hr; cases hr
    · rw [hu, e.eq_noteOverrun hb hc]

/-- The one access that `isClearWrite` names (R204). -/
theorem isClearWrite_eq_true_iff (t : Access) : isClearWrite t = true ↔ t = Access.command 0x0000000F#32 := by
  rw [isClearWrite, encode_clear, beq_iff_eq]

/-- The write of the CLEAR word, idle or busy (R204, R257). -/
theorem busAccess_clear (s : State) : busAccess (Access.command 0x0000000F#32) s = .next s.softReset := by
  rw [busAccess_command, commandWrite_of_decode s ((decode_eq_clear _).mpr rfl), exec_clear]

/-! ### The overrun flag -/

@[simp] theorem State.writeReg_ovr (s : State) (w : Word) (r : Reg) : (s.writeReg w r).ovr = s.ovr := by
  cases r <;> rfl

@[simp] theorem State.writeTarget_ovr (s : State) (w : Word) (g : Target) : (s.writeTarget w g).ovr = s.ovr := by
  cases g with
  | register r => exact s.writeReg_ovr w r
  | buffer a n => rfl

/-- Of the effects of a write only that of CLEAR takes `OVR` back to 0 (R24, R257). -/
theorem WriteEffect.ovr_or_clear {s u : State} {t : Access} (e : WriteEffect s t u) (ho : s.ovr = true) :
    u.ovr = true ∨ isClearWrite t = true := by
  cases e with
  | ignored => exact .inl rfl
  | cleared hclear => exact .inr hclear
  | completed => exact .inl ho
  | failed => exact .inl ho
  | started => exact .inl ho
  | stored g => exact .inl ((s.writeTarget_ovr t.data g).trans ho)

/-- A host operation keeps `OVR` set unless it writes CLEAR (R257). -/
theorem hostMove_ovr_or_clear (s u : State) (ho : s.ovr = true) (h : hostMove s = .next u) :
    u.ovr = true ∨ ∃ rest, s.host = .access (Access.command 0x0000000F#32) :: rest := by
  obtain ⟨-, rfl⟩ | ⟨t, rest, hhost, hbus⟩ | ⟨host', v, rfl, -⟩ := hostMove_effect s u h
  · exact .inl ho
  · obtain ⟨-, ⟨-, v, rfl⟩ | ⟨-, e⟩⟩ := busAccess_effect t _ u hbus
    · exact .inl ho
    · refine (e.ovr_or_clear ho).imp_right fun hclear => ⟨rest, ?_⟩
      rw [hhost, (isClearWrite_eq_true_iff t).mp hclear]
  · exact .inl ho

/-- Settles O14: a write while busy has one effect, that of CLEAR aside, and of all steps only a CLEAR clears `OVR`. -/
theorem writesWhileBusyOnlySetOverrun : Obligations.WritesWhileBusyOnlySetOverrun := by
  unfold Obligations.WritesWhileBusyOnlySetOverrun
  refine ⟨busAccess_write_busy, fun s _ => busAccess_clear s, fun s t ho hstep => ?_⟩
  obtain ⟨-, -, rfl⟩ | ⟨-, hmove⟩ | ⟨-, rfl⟩ := step_effect s t hstep
  · exact .inl ho
  · simpa using hostMove_ovr_or_clear s.takeTurn t (by simpa using ho) hmove
  · exact .inl (by simpa using ho)

/-- Settles O59: while busy an access that is no CLEAR only notes the overrun, and the other operations keep the state
but for the host's fields. -/
theorem hostCannotDisturbARunningCommand : Obligations.HostCannotDisturbARunningCommand := by
  unfold Obligations.HostCannotDisturbARunningCommand
  exact hostMove_busy_view

/-! ### The steps of a command, from its issue to its end -/

/-- The write of a command's word keeps the invariant: it is a host access (R190). -/
theorem inv_exec (i : Instr) (s t : State) (h : Inv s) (he : exec i s = .next t) : Inv t :=
  inv_busAccess s t (Access.command (encode i)) h <| by
    rw [busAccess_command, commandWrite_of_decode s (decode_encode i), he]

/-- A command that leaves the engine running has started its key schedule (R190, R193). -/
theorem exec_starts_ks (i : Instr) (s t : State) (hb : s.busy = false) (h : exec i s = .next t) (ht : t.busy = true) :
    ∃ cmd, workOf i = some cmd ∧ t.curOp = cmd.curOp ∧ t.phase = .ks ∧ t.round = 0#5 := by
  obtain ⟨-, rfl⟩ | ⟨-, hbusy, -⟩ | ⟨-, -, rfl⟩ | ⟨cmd, e, -, -, -, rfl⟩ | ⟨cmd, n, pv, hi, -, -, rfl⟩ :=
    exec_cases i s t h
  · cases ht
  · rw [hb] at hbusy; cases hbusy
  · exact absurd (hb.symm.trans ht) (by decide)
  · exact absurd (hb.symm.trans ht) (by decide)
  · exact ⟨cmd, hi, rfl, rfl, rfl⟩

/-- Settles O57: a started command has its schedule and the blocks it latched before it, and the latches fit the
command. -/
theorem stepCountsAtIssue : Obligations.StepCountsAtIssue := by
  unfold Obligations.StepCountsAtIssue
  intro s t i hinv hb hexec
  have hinv' := inv_exec i s t hinv hexec
  refine ⟨(stepsLeft_eq_zero_iff t hinv').mpr, fun ht => ?_, fun hi => ?_⟩
  · obtain ⟨cmd, hwork, hop, hphase, hround⟩ := exec_starts_ks i s t hb hexec ht
    obtain ⟨-, -, -, -, -, -, hkeygen, hblock, -⟩ := hinv'
    have hsteps : stepsLeft t = 16 + 18 * t.nblk.toNat := by simp [stepsLeft_ks t hphase, hround]
    refine ⟨fun hi => ?_, fun hi => ?_, fun _ => hsteps⟩
    · subst hi
      cases hwork
      simp [hsteps, hkeygen hop]
    · have hcur : t.curOp = .block := by obtain rfl | rfl := hi <;> cases hwork <;> exact hop
      simp [hsteps, hblock hcur]
  · by_contra hbusy
    obtain ⟨cmd, hwork, -⟩ := exec_starts_ks i s t hb hexec (by simpa using hbusy)
    obtain rfl | rfl := hi <;> cases hwork

/-- An engine step leaves `BUSY` and `DONE`, or it ends the command with `DONE` (R197). -/
theorem State.engineStep_busy_done (s : State) :
    (s.engineStep.busy = s.busy ∧ s.engineStep.done = s.done) ∨
    (s.engineStep.busy = false ∧ s.engineStep.done = true) := by
  cases hp : s.phase with
  | idle => rw [s.engineStep_idle hp]; exact .inl ⟨rfl, rfl⟩
  | ks =>
    rw [s.engineStep_ks hp]
    simp only [State.ksStep, State.endSchedule]
    split
    · split
      · exact .inr ⟨rfl, rfl⟩
      · exact .inl ⟨rfl, rfl⟩
    · exact .inl ⟨rfl, rfl⟩
  | load => rw [s.engineStep_load hp]; exact .inl ⟨rfl, rfl⟩
  | rnd => rw [s.engineStep_rnd hp]; exact .inl ⟨rfl, rfl⟩
  | store =>
    rw [s.engineStep_store hp]
    simp only [State.storeStep, State.endStore]
    split
    · exact .inr ⟨rfl, rfl⟩
    · exact .inl ⟨rfl, rfl⟩

/-- The steps a command has left bring it to its end, with `DONE` set (R197, R265). -/
theorem iterate_stepsLeft (k : Nat) (s : State) (h : Inv s) (hk : stepsLeft s = k)
    (hrun : s.busy = true ∨ s.done = true) :
    State.busy (Nat.iterate State.engineStep k s) = false ∧ State.done (Nat.iterate State.engineStep k s) = true := by
  induction k generalizing s with
  | zero =>
    have hidle := (stepsLeft_eq_zero_iff s h).mp hk
    exact ⟨hidle, hrun.resolve_left (by simp [hidle])⟩
  | succ k ih =>
    have hphase : s.phase ≠ .idle := fun hp => by rw [stepsLeft_idle s hp] at hk; cases hk
    have hcount := stepsLeft_engineStep s h hphase
    rw [Function.iterate_succ_apply]
    refine ih s.engineStep (inv_engineStep s h) (by omega) ?_
    obtain ⟨hbusy, hdone⟩ | ⟨-, hdone⟩ := s.engineStep_busy_done
    · rwa [hbusy, hdone]
    · exact .inr hdone

/-- Settles O58: the poll ends on what the steps left alone leave, which is the command's end. -/
theorem pollingEnds : Obligations.PollingEnds := by
  unfold Obligations.PollingEnds
  intro s h hb hhost
  have ⟨_, _, ⟨hphase, _⟩, _⟩ := h
  obtain ⟨hbusy, hdone⟩ := iterate_stepsLeft _ s h rfl (.inl hb)
  have hend := commandView_iterate (stepsLeft s) s
  obtain ⟨n, u, hn, hrun, hu, hview⟩ := run_poll (stepsLeft s) s ⟨rfl, hphase⟩ hhost (by rw [← hend]; exact hbusy)
  obtain ⟨hubusy, hudone, -⟩ := report_of_commandView (hview.trans hend.symm)
  exact ⟨n, u, hn, hrun, hu, hubusy.trans hbusy, hudone.trans hdone⟩

/-! ### Power-on reset -/

/-- The machine after power-on has nothing to do and holds its state (R240, log 7). -/
theorem step_resetWith (p : Params) (m : Memory) : step (State.resetWith p m) = .next (State.resetWith p m) :=
  step_of_nextAgent_none _ rfl

/-- `PADCFG` after power-on (R26, R250). -/
theorem PadCfg.toWord_reset : PadCfg.reset.toWord = 0x00010120#32 := by decide

/-- `STATUS` after power-on (R24, R250): it shows neither the parameters nor MBUF. -/
theorem State.statusWord_resetWith (p : Params) (m : Memory) : (State.resetWith p m).statusWord = 0x00000000#32 :=
  calc (State.resetWith p m).statusWord
    _ = State.reset.statusWord := rfl
    _ = 0x00000000#32 := by decide

/-- Settles O50: every register holds the value `State.resetWith` gives it, and no agent is enabled. -/
theorem resetLeavesEveryRegisterAtItsValue : Obligations.ResetLeavesEveryRegisterAtItsValue := by
  unfold Obligations.ResetLeavesEveryRegisterAtItsValue
  intro p m
  have hsk : ∀ i : Fin 16, (State.resetWith p m).sk[i.val] = 0#48 := fun i => Vector.getElem_replicate i.isLt
  exact ⟨State.statusWord_resetWith p m, PadCfg.toWord_reset, rfl, rfl, rfl, rfl, rfl, rfl, hsk, rfl, rfl, rfl, rfl, rfl,
    rfl, rfl, rfl, rfl, rfl, rfl, rfl, step_resetWith p m⟩

end Sys2Proof.Machine
end
